-- ==== Sys2Proof/Word.lean ====
section
/-! DEFINITION. The words WN-FSA stores and moves (00_scope.md R8, R9): bytes, the fragment of the input port, one
sample of the input ports, and the event record. -/

namespace Sys2Proof

/-- A byte; bit 0 is the least significant (00_scope.md R9). -/
abbrev Byte := BitVec 8

/-- A fragment as the port delivers it (30_encoding.md R70, R71): the host's error mark `in_err`, the declared byte
count `in_count` (F[0]) and the 19 payload lanes `in_data[0..18]` (lane i is F[i+1]). PEND holds one (10_state.md
R29). -/
structure Fragment where
  err   : Bool
  count : BitVec 5
  lanes : Vector Byte 19
  deriving DecidableEq, Repr, Inhabited

/-- The fragment of zeros: no error, count 0, every lane 00. -/
def Fragment.zero : Fragment := ⟨false, 0, Vector.replicate 19 0⟩

/-- What the host drives on the input ports at one rising edge of `clk` (30_encoding.md R71). -/
structure PortIn where
  rst   : Bool
  valid : Bool
  frag  : Fragment
  deriving DecidableEq, Repr, Inhabited

/-- The host drives nothing: `rst = 0`, `in_valid = 0`. -/
def PortIn.idle : PortIn := ⟨false, false, Fragment.zero⟩

/-- The event record, the output registers that carry a transaction's event (10_state.md R30). -/
structure EventRecord where
  /-- EV_CODE -/
  evCode   : BitVec 3
  /-- EV_SURPLUS -/
  surplus  : Bool
  /-- FRM_TYPE -/
  frmType  : Byte
  /-- FRM_LEN -/
  frmLen   : BitVec 5
  /-- FRM_DATA[0..16] -/
  frmData  : Vector Byte 17
  /-- FRM_CSUM_RX -/
  csumRx   : BitVec 16
  /-- FRM_CSUM_CALC -/
  csumCalc : BitVec 16
  /-- FRM_SEL, one-hot -/
  frmSel   : BitVec 6
  /-- EV_FLUSH -/
  flush    : Bool
  /-- EV_BAT_LOW -/
  batLow   : Bool
  deriving DecidableEq, Repr, Inhabited

/-- The record with every field 0, on which 42_dispatch.md section 2 builds: "Any field not mentioned in a rule below is
0". -/
def EventRecord.zero : EventRecord := ⟨0, false, 0, 0, Vector.replicate 17 0, 0, 0, 0, false, false⟩

end Sys2Proof
end

