-- ==== Sys2Proof/Config.lean ====
section
/-! DEFINITION. What is fixed for the machine: the constants and parameters of 00_scope.md R7, and the free values, which
have no body, so that nothing can be proved of them. -/

namespace Sys2Proof.Config

/-- SYNC_MARKER (00_scope.md R7). -/
abbrev syncMarker : Byte := 0xFF
/-- BUF_CAP: the frame buffer has the indices 0 to 19 (R7, 20_memory.md R50). -/
abbrev bufCap : Nat := 20
/-- MAX_PAYLOAD: payload bytes in one fragment (R7). -/
abbrev maxPayload : Nat := 19
/-- LOOKUP_AT: the lookup runs once this many bytes are buffered (R7, 40_assembler.md R108). -/
abbrev lookupAt : Nat := 3
/-- CSUM_MOD (R7, 41_validator.md R130). -/
abbrev csumMod : Nat := 65536

/-- OVERRUN_POLICY, what becomes of a frame completed with surplus bytes (R7, 92_eei_decisions.md D9). -/
inductive OverrunPolicy where
  | truncate
  | discard
  deriving DecidableEq, Repr, Inhabited

/-- The parameters a model takes as arguments (R7, 92_eei_decisions.md). They belong to the instance: no operation
writes them (log 7). -/
structure Params where
  /-- OVERRUN_POLICY -/
  overrunPolicy     : OverrunPolicy
  /-- GATE_MARKER_BY_COUNT -/
  gateMarkerByCount : Bool
  /-- LAT_MAX, at least 1 -/
  latMax            : Nat
  deriving DecidableEq, Repr, Inhabited

/-- FREE VALUE (log 8). LAT_MAX is OPEN, a whole number of at least 1 (D17): any number plus one. -/
opaque freeLatMaxPred : Nat
/-- LAT_MAX as the spec leaves it: open, at least 1. -/
def latMax : Nat := freeLatMaxPred + 1

/-- FREE VALUE (log 8). The completion latency the implementation takes at the edge of this index, before
`Machine.clipLatency` holds it between 1 and LAT_MAX (70_reset_and_hazards.md R235, I12). -/
opaque freeLatency : Nat → Nat
/-- FREE VALUE (logs 5 and 12). PEND after RESET (10_state.md R36), and the fragment accepted when the host changed its
offer before acceptance (70_reset_and_hazards.md R234 (a), I13). -/
opaque freeFragment : Nat → Fragment
/-- FREE VALUE (logs 5 and 6). The event record after RESET (R36), and what the record's ports show while `ev_valid = 0`
(10_state.md R30, I10). -/
opaque freeRecord : Nat → EventRecord

/-- The parameters with the defaults of R7; LAT_MAX has none and is the open constant. -/
def defaultParams : Params := ⟨.truncate, true, latMax⟩

end Sys2Proof.Config
end

