-- ==== Sys2Proof/Syntax.lean ====
section
/-! DEFINITION. The instructions of WN-FSA: one constructor for each row of spec/opcode_table.json. -/

namespace Sys2Proof

/-- The seven operations of a transaction (30_encoding.md R75) and the seven sensor-type rows (R78, R90). An operation
that reads the fragment port carries the fragment as its operand (40_assembler.md R100 to R106); TYPE_UNKNOWN carries
the type byte that no other row matches. -/
inductive Instr where
  /-- RESET, power reset (R101). -/
  | reset
  /-- FRAG_MALFORMED (R102). -/
  | fragMalformed (f : Fragment)
  /-- FRAG_INSYNC (R106). -/
  | fragInsync (f : Fragment)
  /-- FRAG_FALSE_START (R105). -/
  | fragFalseStart (f : Fragment)
  /-- FRAG_MARKER (R104). -/
  | fragMarker (f : Fragment)
  /-- FRAG_IDLE (R103). -/
  | fragIdle (f : Fragment)
  /-- SYNC_RESERVED (R117). -/
  | syncReserved
  /-- TYPE_RAIN (R141). -/
  | typeRain
  /-- TYPE_TEMP_HUM (R142). -/
  | typeTempHum
  /-- TYPE_PRESSURE (R143). -/
  | typePressure
  /-- TYPE_UV (R144). -/
  | typeUv
  /-- TYPE_WIND (R145). -/
  | typeWind
  /-- TYPE_STATUS (R146). -/
  | typeStatus
  /-- TYPE_UNKNOWN (R109, R147). -/
  | typeUnknown (t : Byte)
  deriving DecidableEq, Repr

end Sys2Proof
end

