-- ==== Sys2Proof/Machine/Flags.lean ====
section
/-! DEFINITION. WN-FSA has no flags register (10_state.md R35): its Boolean conditions are functions of the state and the
operation, recomputed when used. Here are those conditions, and the bits of the flags byte b0 (30_encoding.md R79). -/

namespace Sys2Proof

/-- The malformed test (30_encoding.md R74): the host's mark, or a count above MAX_PAYLOAD. No lane is read. -/
def Fragment.malformed (f : Fragment) : Bool := f.err || decide (Config.maxPayload < f.count.toNat)

/-- The marker test (R73): lane 0 is the sync marker, and the fragment declares a byte or the count is not consulted. -/
def Fragment.marker (p : Config.Params) (f : Fragment) : Bool :=
  f.lanes[0] == Config.syncMarker && (decide (1 ≤ f.count.toNat) || !p.gateMarkerByCount)

namespace Machine

/-- "in sync" (10_state.md R35): SYNC_CNT = 2. -/
def inSync (syncCnt : BitVec 2) : Bool := syncCnt == 2

/-- "expected length known" (R35): EXP_LEN ≠ 0. -/
def expKnown (expLen : BitVec 5) : Bool := expLen != 0

/-- b0[7], 1 = not powered (R79, interpreted for Status only). -/
def notPowered (b0 : Byte) : Bool := b0.getLsbD 7
/-- b0[6], 1 = battery low (R79, 43_field_decode.md R160). -/
def batteryLow (b0 : Byte) : Bool := b0.getLsbD 6
/-- b0[5], radio sync (R79, Status only). -/
def radioSync (b0 : Byte) : Bool := b0.getLsbD 5
/-- b0[4], 1 = radio signal low (R79, Status only). -/
def radioLow (b0 : Byte) : Bool := b0.getLsbD 4

end Machine
end Sys2Proof
end

