-- ==== Sys2Proof/Machine/Operands.lean ====
section
/-! DEFINITION. Operand forms: the declared bytes of a fragment (30_encoding.md R72), the ways a field is assembled from
frame bits (R87), the fixed table of sensor types (R78) and the two checksums of a frame (41_validator.md R130). -/

namespace Sys2Proof

/-- The declared valid bytes of a fragment, lanes 0 to `in_count − 1` in order (30_encoding.md R72, 20_memory.md R53). -/
def Fragment.declared (f : Fragment) : List Byte := f.lanes.toList.take f.count.toNat

namespace Machine

/-! ### The forms of R87 -/

/-- Form (b): the 12-bit value `{bH[3:0], bL}`. -/
def pair12 (hi lo : Byte) : BitVec 12 := hi.extractLsb' 0 4 ++ lo
/-- Form (c), also (g): the 16-bit value `{bH, bL}`. -/
def pair16 (hi lo : Byte) : BitVec 16 := hi ++ lo
/-- Form (d): `bN[3:0]`. -/
def loNibble (b : Byte) : BitVec 4 := b.extractLsb' 0 4
/-- Form (d): `bN[7:4]`. -/
def hiNibble (b : Byte) : BitVec 4 := b.extractLsb' 4 4
/-- Form (e): the wind-average value `{b6, b5[7:4]}` = b6·16 + b5[7:4]. -/
def windAvg12 (b6 b5 : Byte) : BitVec 12 := b6 ++ hiNibble b5

/-! ### Sensor types (R78, R90) -/

/-- The rows TYPE_* of the opcode table. -/
inductive TypeRow where
  | rain
  | tempHum
  | pressure
  | uv
  | wind
  | status
  | unknown (t : Byte)
  deriving DecidableEq, Repr

/-- The row a sensor-type byte selects: one of six 8-bit patterns, else the lowest-priority TYPE_UNKNOWN (R90). -/
def typeRow (t : Byte) : TypeRow :=
  if t = 0x41 then .rain
  else if t = 0x42 then .tempHum
  else if t = 0x46 then .pressure
  else if t = 0x47 then .uv
  else if t = 0x48 then .wind
  else if t = 0x60 then .status
  else .unknown t

/-- The frame length of a row (R78); an unknown type has none. -/
def TypeRow.length : TypeRow → Option (BitVec 5)
  | .rain => some 17
  | .tempHum => some 12
  | .pressure => some 8
  | .uv => some 6
  | .wind => some 11
  | .status => some 12
  | .unknown _ => none

/-- The sensor-type byte of a row. -/
def TypeRow.code : TypeRow → Byte
  | .rain => 0x41
  | .tempHum => 0x42
  | .pressure => 0x46
  | .uv => 0x47
  | .wind => 0x48
  | .status => 0x60
  | .unknown t => t

/-- The instruction a row stands for. -/
def TypeRow.instr : TypeRow → Instr
  | .rain => .typeRain
  | .tempHum => .typeTempHum
  | .pressure => .typePressure
  | .uv => .typeUv
  | .wind => .typeWind
  | .status => .typeStatus
  | .unknown t => .typeUnknown t

/-- LEN_TABLE (00_scope.md R7, 30_encoding.md R78): the frame length of a sensor-type byte, none if it is unknown. -/
def lenTable (t : Byte) : Option (BitVec 5) := (typeRow t).length

/-- EXP_LEN is a length of LEN_TABLE: 6, 8, 11, 12 or 17 (10_state.md R24, 41_validator.md R130). -/
def legalLen (n : BitVec 5) : Bool := n == 6 || n == 8 || n == 11 || n == 12 || n == 17

/-! ### Checksums (41_validator.md R130) -/

/-- The received checksum `{b(L−1), b(L−2)}`, little-endian in the last two bytes (20_memory.md R52). VALIDATE is reached
only with `L ∈ {6, 8, 11, 12, 17}` (`legalLen`), so both bytes exist. -/
def rxChecksum (frame : List Byte) : BitVec 16 :=
  pair16 (frame.getD (frame.length - 1) 0) (frame.getD (frame.length - 2) 0)

/-- The exact sum of some bytes. -/
def byteSum : List Byte → Nat
  | [] => 0
  | b :: bs => b.toNat + byteSum bs

/-- The computed checksum `(frame[0] + … + frame[L−3]) mod 65536`. -/
def calcChecksum (frame : List Byte) : BitVec 16 :=
  BitVec.ofNat 16 (byteSum (frame.take (frame.length - 2)) % Config.csumMod)

end Machine
end Sys2Proof
end

