-- ==== Sys2Proof/WellFormed.lean ====
section
/-! DEFINITION. Which instructions stand for something the encodings can express: an operation's fragment must pass the
tests its key says it passed (30_encoding.md R73, R74, R75), and TYPE_UNKNOWN's byte must be unknown (R78). -/

namespace Sys2Proof

/-- Well-formedness under an instance's parameters (the marker test depends on GATE_MARKER_BY_COUNT). -/
def Instr.wellFormed (p : Config.Params) : Instr → Bool
  | .reset => true
  | .fragMalformed f => f.malformed
  | .fragInsync f => !f.malformed
  | .fragFalseStart f => !f.malformed && !f.marker p
  | .fragMarker f => !f.malformed && f.marker p
  | .fragIdle f => !f.malformed && !f.marker p
  | .syncReserved => true
  | .typeRain => true
  | .typeTempHum => true
  | .typePressure => true
  | .typeUv => true
  | .typeWind => true
  | .typeStatus => true
  | .typeUnknown t => (Machine.lenTable t).isNone

end Sys2Proof
end

