-- ==== Sys2Proof/Decode.lean ====
section
/-! DEFINITION. From the two selectors of spec/opcode_table.json to instructions and back. The machine itself decodes by
`decodeOp` (the operation key, 30_encoding.md R75) and `Machine.typeRow` (the sensor-type byte, R78, R90). The byte image of
an operation, which `decode` and `encode` read and write, is the model's own layout (log 17): the spec puts the key, the
error mark and F[0..19] (R70) on ports, not into memory. -/

namespace Sys2Proof

/-! ### The operation key (R75) -/

/-- The operation rows of the opcode table, in priority order. -/
inductive OpRow where
  | reset
  | malformed
  | insync
  | falseStart
  | marker
  | idle
  | reserved
  deriving DecidableEq, Repr

/-- One row of R75's table: a key belongs to the row when `key & mask = pattern`. -/
structure KeyRow where
  row     : OpRow
  pattern : BitVec 5
  mask    : BitVec 5
  deriving DecidableEq, Repr

/-- R75's table, in priority order (the first match wins; at SYNC_CNT = 3 too, log 13). -/
def keyTable : List KeyRow :=
  [⟨.reset, 0b10000, 0b10000⟩, ⟨.malformed, 0b01000, 0b11000⟩, ⟨.insync, 0b00100, 0b11110⟩,
   ⟨.falseStart, 0b00010, 0b11111⟩, ⟨.marker, 0b00001, 0b11101⟩, ⟨.idle, 0b00000, 0b11111⟩,
   ⟨.reserved, 0b00110, 0b11110⟩]

/-- A key lies in a row. -/
def KeyRow.holds (k : BitVec 5) (r : KeyRow) : Bool := k &&& r.mask == r.pattern

/-- The operation row a key selects. The rows cover all 32 keys (R75), so the last alternative never decides. -/
def opRow (k : BitVec 5) : OpRow :=
  match keyTable.find? (KeyRow.holds k) with
  | some r => r.row
  | none => .reserved

/-- One operation: RESET or one fragment (00_scope.md R14). -/
inductive Op where
  | rst
  | frag (f : Fragment)
  deriving DecidableEq, Repr

/-- The fragment of an operation; RESET has none and reads none. -/
def Op.fragment : Op → Fragment
  | .rst => Fragment.zero
  | .frag f => f

/-- The operation key `{rst, malformed, SYNC_CNT[1:0], marker}` (R75). With `rst` the bits of the malformed and marker
tests are irrelevant and stand at 0 (log 19). -/
def keyOf (p : Config.Params) (syncCnt : BitVec 2) : Op → BitVec 5
  | .rst => BitVec.ofBool true ++ BitVec.ofBool false ++ syncCnt ++ BitVec.ofBool false
  | .frag f => BitVec.ofBool false ++ BitVec.ofBool f.malformed ++ syncCnt ++ BitVec.ofBool (f.marker p)

/-- The instruction of an operation row, with the fragment as its operand where it has one. -/
def OpRow.instr (f : Fragment) : OpRow → Instr
  | .reset => .reset
  | .malformed => .fragMalformed f
  | .insync => .fragInsync f
  | .falseStart => .fragFalseStart f
  | .marker => .fragMarker f
  | .idle => .fragIdle f
  | .reserved => .syncReserved

/-- The instruction a key selects for a fragment. -/
def decodeKeyed (k : BitVec 5) (f : Fragment) : Instr := (opRow k).instr f

/-- The instruction one operation runs in a state with this SYNC_CNT (R75, 40_assembler.md R100). -/
def decodeOp (p : Config.Params) (syncCnt : BitVec 2) (op : Op) : Instr :=
  decodeKeyed (keyOf p syncCnt op) op.fragment

/-! ### The byte image of an operation (log 17) -/

/-- The two selectors of the opcode table: its "format" column. -/
inductive Format where
  | opKey
  | type8
  deriving DecidableEq, Repr

/-- Why bytes are no instruction. -/
inductive Reject where
  /-- no byte at all -/
  | empty
  /-- an operation image whose first byte is above 31: a key has five bits -/
  | keyTooWide (b : Byte)
  /-- an operation image that ends before the error mark, the count and the 19 lanes -/
  | truncated
  /-- an error mark other than 0 and 1 -/
  | errNotABit (b : Byte)
  /-- a count byte above 31: `in_count` has five bits -/
  | countTooWide (b : Byte)
  deriving DecidableEq, Repr

/-- Nineteen lanes from a list; a list that is too short is filled up with 00. -/
def lanesOf (l : List Byte) : Vector Byte 19 :=
  ⟨((l ++ List.replicate 19 0).take 19).toArray, by simp⟩

/-- The error mark, the count F[0] and the lanes F[1..19] of a fragment, one byte each. -/
def Fragment.image (f : Fragment) : List Byte :=
  (if f.err then 1 else 0) :: f.count.setWidth 8 :: f.lanes.toList

/-- Reads a fragment's image; answers the fragment and the bytes after it. -/
def fragmentOfImage : List Byte → Except Reject (Fragment × List Byte)
  | [] => .error .truncated
  | [_] => .error .truncated
  | e :: c :: rest =>
    if 1 < e.toNat then .error (.errNotABit e)
    else if 31 < c.toNat then .error (.countTooWide c)
    else if rest.length < 19 then .error .truncated
    else .ok (⟨e == 1, c.setWidth 5, lanesOf (rest.take 19)⟩, rest.drop 19)

/-- Whether a row's instruction carries a fragment. -/
def OpRow.hasFragment : OpRow → Bool
  | .reset => false
  | .malformed => true
  | .insync => true
  | .falseStart => true
  | .marker => true
  | .idle => true
  | .reserved => false

/-- Decodes an instruction at the head of some bytes; answers it and the bytes after it. Total: what is no instruction is
rejected by name. -/
def decode : Format → List Byte → Except Reject (Instr × List Byte)
  | .opKey, [] => .error .empty
  | .opKey, k :: rest =>
    if 31 < k.toNat then .error (.keyTooWide k)
    else
      let row := opRow (k.setWidth 5)
      if row.hasFragment then
        match fragmentOfImage rest with
        | .ok (f, rest') => .ok (row.instr f, rest')
        | .error r => .error r
      else .ok (row.instr Fragment.zero, rest)
  | .type8, [] => .error .empty
  | .type8, t :: rest => .ok ((Machine.typeRow t).instr, rest)

/-- The format and the bytes of an instruction, from the patterns of R75 and R78; don't-care bits are 0. -/
def encode : Instr → Format × List Byte
  | .reset => (.opKey, [0b10000])
  | .fragMalformed f => (.opKey, 0b01000 :: f.image)
  | .fragInsync f => (.opKey, 0b00100 :: f.image)
  | .fragFalseStart f => (.opKey, 0b00010 :: f.image)
  | .fragMarker f => (.opKey, 0b00001 :: f.image)
  | .fragIdle f => (.opKey, 0b00000 :: f.image)
  | .syncReserved => (.opKey, [0b00110])
  | .typeRain => (.type8, [0x41])
  | .typeTempHum => (.type8, [0x42])
  | .typePressure => (.type8, [0x46])
  | .typeUv => (.type8, [0x47])
  | .typeWind => (.type8, [0x48])
  | .typeStatus => (.type8, [0x60])
  | .typeUnknown t => (.type8, [t])

/-! ### Words of the opcode table -/

/-- The least fragment for which R73 and R74 give the malformed bit and the marker bit of a key: zero but for `in_err`,
and for the one declared marker byte (log 18). -/
def fragmentOfKey (k : BitVec 5) : Fragment :=
  ⟨k.getLsbD 3, if k.getLsbD 0 then 1 else 0, lanesOf [if k.getLsbD 0 then Config.syncMarker else 0]⟩

/-- A word of the opcode table is an operation key when it is below 32, else a sensor-type byte: the table gives both
kinds eight bits and no bit that tells them apart (log 16). -/
def isKeyWord (w : Nat) : Bool := decide (w < 32)

/-- The instruction the decoder reads from a word of the opcode table. Both kinds of row have at most eight bits; a key is
followed by the image of its fragment (`fragmentOfKey`). -/
def decodeTableWord (nbits w : Nat) : Option Instr :=
  if 8 < nbits ∨ 255 < w then none
  else
    let bytes : List Byte := BitVec.ofNat 8 w :: (fragmentOfKey (BitVec.ofNat 5 w)).image
    match decode (if isKeyWord w then .opKey else .type8) bytes with
    | .ok (i, _) => some i
    | .error _ => none

end Sys2Proof
end

