-- ==== Sys2Proof/Machine/State.lean ====
section
/-! DEFINITION. The state of WN-FSA (10_state.md), as plain data, and the state after RESET (R36). -/

namespace Sys2Proof.Machine

/-- A byte-addressed store as its written cells. -/
abbrev Memory := List Host.Cell

/-- The addresses of the cells rise strictly, starting at or above a bound. -/
def Memory.risingFrom : Nat → Memory → Bool
  | _, [] => true
  | n, c :: m => decide (n ≤ c.1) && Memory.risingFrom (c.1 + 1) m

/-- The canonical form of BUF's cells: addresses strictly rising, and each an index BUF has (20_memory.md R50). An unlisted
index has no value (10_state.md R22), so no byte is left out of the list for being the default (log 9). -/
def Memory.wf (m : Memory) : Bool := Memory.risingFrom 0 m && m.all (fun c => decide (c.1 < Config.bufCap))

/-- What the block knows of a fragment the host has offered but the block has not accepted: bookkeeping for the rule that
an offer must not change (70_reset_and_hazards.md R234 (a), log 12), and that after the accepting edge the inputs may change
freely (R234 (b), log 26). A reset edge ends an offer (log 24). -/
inductive Offer where
  /-- `in_valid` was 0 at the last edge: nothing is on offer -/
  | none
  /-- `in_valid` has been 1 at every edge since the last accepting edge: the host has raised nothing since, and the inputs
  are still free (R234 (b)) -/
  | released
  /-- the host raised `in_valid` with this fragment and has kept it at every edge since (R234 (a)) -/
  | stable (f : Fragment)
  /-- the offer was changed or withdrawn -/
  | changed
  deriving DecidableEq, Repr

/-- The state. -/
structure State where
  /-- SYNC_CNT (R20, R21) -/
  syncCnt    : BitVec 2
  /-- BUF: its written cells (R22) -/
  buf        : Memory
  /-- BUF_LEN (R23) -/
  bufLen     : BitVec 5
  /-- EXP_LEN, 0 = unknown (R24) -/
  expLen     : BitVec 5
  /-- CSUM_ERR_CNT (R27) -/
  csumErrCnt : BitVec 32
  /-- BUSY (R28) -/
  busy       : Bool
  /-- PEND (R29) -/
  pend       : Fragment
  /-- EV_VALID (R31) -/
  evValid    : Bool
  /-- the event record (R30) -/
  record     : EventRecord
  /-- the parameters of this instance (00_scope.md R7); no instruction writes them -/
  params     : Config.Params
  /-- the model's own: what the host drives at the coming edges, first edge first (log 2) -/
  inputs     : List PortIn
  /-- the model's own: the host's standing offer (log 12) -/
  offer      : Offer
  /-- the model's own: edges left until the transaction in flight completes (log 8) -/
  remaining  : Nat
  /-- the model's own: latencies supplied for the transactions to come (log 8) -/
  latChoice  : List Nat
  /-- the model's own: the counter free values are applied to; every edge advances it (log 5) -/
  freeIdx    : Nat
  deriving DecidableEq, Repr

/-- Why the machine stops with a fault. Every one is safe: the model stops where no run from reset arrives. -/
inductive Fault where
  /-- `Fault(SyncUnreachable)`: raised by SYNC_RESERVED, SYNC_CNT = 3 (R21, 40_assembler.md R117). Safe. -/
  | syncUnreachable
  /-- `Fault(UnknownTypeAtDispatch)`: raised by TYPE_UNKNOWN at dispatch (42_dispatch.md R147). Safe. -/
  | unknownTypeAtDispatch
  /-- raised by a read of BUF at an index at or above BUF_LEN, or at one that was not written (R22). Safe. -/
  | bufUnwritten
  /-- raised by an APPEND at an index BUF does not have (20_memory.md R50, 40_assembler.md R107; log 10). Safe. -/
  | bufOverflow
  /-- raised by COMPLETE when EXP_LEN is no length of LEN_TABLE (R24, 41_validator.md R130; log 11). Safe. -/
  | expLenUnreachable
  /-- raised by the host's sampling of a reserved event code, 0, 6 or 7 (60_exceptions.md R200,
  93_implementation_defined.md I17; log 14). Safe. -/
  | eventCodeReserved
  deriving DecidableEq, Repr

/-- Why the model refuses. -/
inductive Refusal where
  /-- raised by an arm of `exec` whose instruction has no meaning yet; no arm is left so. Safe. -/
  | notModelled (mnemonic : String)
  deriving DecidableEq, Repr

/-- The machine right after RESET (R36). PEND and the event record are unspecified there: the zeros are the model's
(logs 3 and 4), as are the values of the model's own fields (log 20). -/
def State.reset : State where
  syncCnt    := 0
  buf        := []
  bufLen     := 0
  expLen     := 0
  csumErrCnt := 0
  busy       := false
  pend       := Fragment.zero
  evValid    := false
  record     := EventRecord.zero
  params     := Config.defaultParams
  inputs     := []
  offer      := .none
  remaining  := 0
  latChoice  := []
  freeIdx    := 0

end Sys2Proof.Machine
end

