-- ==== Sys2Proof/Machine/Ops.lean ====
section
/-! DEFINITION. The shared operations over BUF, the framing group and the event record. Raising an event is ONE operation
here, `State.emit`, and the recovery beside it is `State.frameReset` (60_exceptions.md R206): WN-FSA has no other form of
trap, saves nothing and returns from nothing (R206, R207). -/

namespace Sys2Proof.Machine

/-- What an instruction answers. -/
abbrev Result := Host.Outcome State Fault Refusal

/-- Applies a change to the state of a result, if it has one. -/
def onNext (r : Result) (f : State → State) : Result :=
  match r with
  | .next s => .next (f s)
  | .fault e => .fault e
  | .refused e => .refused e

/-! ### BUF (20_memory.md R50) -/

/-- The byte at an address; none where no cell is listed. -/
def Memory.read : Memory → Nat → Option Byte
  | [], _ => none
  | c :: m, a => if c.1 = a then some c.2 else Memory.read m a

/-- Writes one byte, keeping the cells in rising order with one cell for each address. -/
def Memory.write : Memory → Nat → Byte → Memory
  | [], a, v => [(a, v)]
  | c :: m, a, v =>
    if a < c.1 then (a, v) :: c :: m
    else if a = c.1 then (a, v) :: m
    else c :: Memory.write m a v

/-- `MemRead(i, 1)`: BUF[i]. Only an index below BUF_LEN that was written has a value (10_state.md R22). -/
def State.bufRead (s : State) (i : Nat) : Option Byte :=
  if i < s.bufLen.toNat then s.buf.read i else none

/-- BUF[i .. i+n−1] as one block; none if one of its bytes has no value. -/
def State.bufBlock (s : State) (i : Nat) : Nat → Option (List Byte)
  | 0 => some []
  | n + 1 =>
    match s.bufRead i with
    | none => none
    | some b =>
      match s.bufBlock (i + 1) n with
      | none => none
      | some bs => some (b :: bs)

/-- APPEND's writes (40_assembler.md R107): `MemWrite(BUF_LEN, 1, v)`, then BUF_LEN + 1. -/
def State.appended (v : Byte) (s : State) : State :=
  { s with buf := s.buf.write s.bufLen.toNat v, bufLen := s.bufLen + 1 }

/-! ### The framing group and the counter -/

/-- Writes SYNC_CNT. -/
def State.setSyncCnt (v : BitVec 2) (s : State) : State := { s with syncCnt := v }

/-- Writes EXP_LEN. -/
def State.setExpLen (v : BitVec 5) (s : State) : State := { s with expLen := v }

/-- FRAME_RESET (R111): SYNC_CNT, BUF_LEN and EXP_LEN together; the contents of BUF become unreadable. -/
def State.frameReset (s : State) : State := { s with syncCnt := 0, buf := [], bufLen := 0, expLen := 0 }

/-- CSUM_ERR_CNT + 1, modulo 2^32 (41_validator.md R133). -/
def State.bumpCsumErr (s : State) : State := { s with csumErrCnt := s.csumErrCnt + 1 }

/-! ### Events (60_exceptions.md R200, 42_dispatch.md R148 to R152) -/

/-- The events a transaction can report (R200). -/
inductive EventCode where
  | frameOk
  | csumErr
  | unknownType
  | malformed
  | overrun
  deriving DecidableEq, Repr

/-- The code on `ev_code` (R200). -/
def EventCode.bits : EventCode → BitVec 3
  | .frameOk => 1
  | .csumErr => 2
  | .unknownType => 3
  | .malformed => 4
  | .overrun => 5

/-- The event of a code; 0, 6 and 7 are never produced (R200). -/
def eventOfBits (b : BitVec 3) : Option EventCode :=
  if b = 1 then some .frameOk
  else if b = 2 then some .csumErr
  else if b = 3 then some .unknownType
  else if b = 4 then some .malformed
  else if b = 5 then some .overrun
  else none

/-- `emit Event(code, record)` (00_scope.md R13): the record is written and EV_VALID is 1 after the completing edge
(10_state.md R30, R31). -/
def State.emit (r : EventRecord) (s : State) : State := { s with evValid := true, record := r }

/-- FRM_DATA of some frame bytes: bj for j below their number, and 0 from there to 16 (10_state.md R30). -/
def frmDataOf (frame : List Byte) : Vector Byte 17 :=
  ⟨((frame ++ List.replicate 17 0).take 17).toArray, by simp⟩

/-- FRM_TYPE, FRM_LEN and FRM_DATA of some frame bytes, with FRM_TYPE = b1. -/
def recFrame (frame : List Byte) : EventRecord :=
  { EventRecord.zero with
    frmType := frame.getD 1 0, frmLen := BitVec.ofNat 5 frame.length, frmData := frmDataOf frame }

/-- The record VALIDATE produces for FRAME_OK (R148), before DISPATCH (R140) fills FRM_SEL, EV_FLUSH and EV_BAT_LOW. -/
def recFrameOk (frame : List Byte) (surplus : Bool) : EventRecord :=
  { recFrame frame with
    evCode := EventCode.frameOk.bits, surplus := surplus,
    csumRx := rxChecksum frame, csumCalc := calcChecksum frame }

/-- The record of CSUM_ERR (R149). -/
def recCsumErr (frame : List Byte) (surplus : Bool) : EventRecord :=
  { recFrame frame with
    evCode := EventCode.csumErr.bits, surplus := surplus,
    csumRx := rxChecksum frame, csumCalc := calcChecksum frame }

/-- The record of UNKNOWN_TYPE (R150): the type byte and the three buffered bytes. -/
def recUnknownType (t : Byte) (bytes : List Byte) : EventRecord :=
  { EventRecord.zero with
    evCode := EventCode.unknownType.bits, frmType := t, frmLen := 3, frmData := frmDataOf bytes }

/-- The record of MALFORMED (R151): the code, and every other field 0. -/
def recMalformed : EventRecord := { EventRecord.zero with evCode := EventCode.malformed.bits }

/-- The record of OVERRUN (R152): the frame, not validated. -/
def recOverrun (frame : List Byte) : EventRecord :=
  { recFrame frame with evCode := EventCode.overrun.bits, surplus := true }

/-- DISPATCH's writes of one row (R140): FRM_SEL and EV_FLUSH, and EV_BAT_LOW from bit 6 of b0 (43_field_decode.md
R160). -/
def State.select (sel : BitVec 6) (flush : Bool) (s : State) : State :=
  { s with record := { s.record with
      frmSel := sel, flush := flush, batLow := batteryLow s.record.frmData[0] } }

/-! ### Power reset (10_state.md R36) -/

/-- Every element to its value in R36. What R36 leaves unspecified, PEND and the event record, is a free value (log 5).
The host's parameters and its coming inputs are no state of the block. A standing offer ends at the reset edge, so what is
offered after it is accepted as driven: DESIGN CHOICE, the spec does not say what becomes of an offer that spans an `rst`
(70_reset_and_hazards.md R234 (a); log 24). -/
def State.powerReset (s : State) : State :=
  { s with
    syncCnt := 0, buf := [], bufLen := 0, expLen := 0, csumErrCnt := 0,
    busy := false, pend := Config.freeFragment s.freeIdx,
    evValid := false, record := Config.freeRecord s.freeIdx,
    offer := .none, remaining := 0 }

end Sys2Proof.Machine
end

