-- ==== Sys2Proof/Machine/Dispatcher.lean ====
section
/-! DEFINITION. The family TYPE_*: the sensor-type rows of the Dispatcher (42_dispatch.md R140 to R147, R154), and the
discard of an unknown type (40_assembler.md R109). -/

namespace Sys2Proof.Machine

/-- TYPE_RAIN (R141). -/
def execTypeRain (s : State) : Result := .next (s.select 0b000001 false)

/-- TYPE_TEMP_HUM (R142). -/
def execTypeTempHum (s : State) : Result := .next (s.select 0b000010 false)

/-- TYPE_PRESSURE (R143). -/
def execTypePressure (s : State) : Result := .next (s.select 0b000100 false)

/-- TYPE_UV (R144). -/
def execTypeUv (s : State) : Result := .next (s.select 0b001000 false)

/-- TYPE_WIND (R145). -/
def execTypeWind (s : State) : Result := .next (s.select 0b010000 false)

/-- TYPE_STATUS and the flush strobe (R146). -/
def execTypeStatus (s : State) : Result := .next (s.select 0b100000 true)

/-- UNKNOWN_TYPE_DISCARD (40_assembler.md R109): copies BUF[0..2], resets the framing group, reports the event. -/
def unknownTypeDiscard (t : Byte) (s : State) : Result :=
  match s.bufBlock 0 Config.lookupAt with
  | some bytes => .next (s.frameReset.emit (recUnknownType t bytes))
  | none => .fault .bufUnwritten

/-- TYPE_UNKNOWN. At LEN_LOOKUP, where the expected length is still unknown, it discards the frame (R109); at dispatch,
which follows a known length, it is `Fault(UnknownTypeAtDispatch)` (R147). EXP_LEN tells the two places apart (log 15). -/
def execTypeUnknown (t : Byte) (s : State) : Result :=
  if expKnown s.expLen then .fault .unknownTypeAtDispatch else unknownTypeDiscard t s

/-- Runs the meaning of a type row. -/
def runTypeRow (r : TypeRow) (s : State) : Result :=
  match r with
  | .rain => execTypeRain s
  | .tempHum => execTypeTempHum s
  | .pressure => execTypePressure s
  | .uv => execTypeUv s
  | .wind => execTypeWind s
  | .status => execTypeStatus s
  | .unknown t => execTypeUnknown t s

/-- DISPATCH (R140): on FRAME_OK, the row of the validated frame's type byte. -/
def dispatch (s : State) : Result := runTypeRow (typeRow s.record.frmType) s

end Sys2Proof.Machine
end

