-- ==== Sys2Proof/Machine/Validator.lean ====
section
/-! DEFINITION. The Validator (41_validator.md R130, R133). -/

namespace Sys2Proof.Machine

/-- VALIDATE (R130): on a match the FRAME_OK event, dispatched; on a mismatch the CSUM_ERR event and one more in
CSUM_ERR_CNT. -/
def validate (frame : List Byte) (surplus : Bool) (s : State) : Result :=
  if rxChecksum frame = calcChecksum frame then dispatch (s.emit (recFrameOk frame surplus))
  else .next (s.bumpCsumErr.emit (recCsumErr frame surplus))

end Sys2Proof.Machine
end

