-- ==== Sys2Proof/Machine/Assembler.lean ====
section
/-! DEFINITION. The operations of the Assembler (40_assembler.md R101 to R118). -/

namespace Sys2Proof.Machine

/-- RESET (R101): every element to its reset value, no event. -/
def execReset (s : State) : Result := .next s.powerReset

/-- FRAG_MALFORMED (R102): the MALFORMED event, no framing state and no counter written. -/
def execFragMalformed (_f : Fragment) (s : State) : Result := .next (s.emit recMalformed)

/-- FRAG_IDLE (R103): no effect. -/
def execFragIdle (_f : Fragment) (s : State) : Result := .next s

/-- FRAG_MARKER (R104): SYNC_CNT + 1; the marker fragment is never appended. -/
def execFragMarker (_f : Fragment) (s : State) : Result := .next (s.setSyncCnt (s.syncCnt + 1))

/-- FRAG_FALSE_START (R105): SYNC_CNT to 0. -/
def execFragFalseStart (_f : Fragment) (s : State) : Result := .next (s.setSyncCnt 0)

/-- SYNC_RESERVED (R117): `raise Fault(SyncUnreachable)`. -/
def execSyncReserved (_s : State) : Result := .fault .syncUnreachable

/-- A micro-operation either goes on in a state or ends the step. -/
inductive Micro where
  | more (s : State)
  | ended (r : Result)
  deriving Repr

/-- APPEND (R107). BUF has no index above 19 (20_memory.md R50). -/
def append (v : Byte) (s : State) : Micro :=
  if s.bufLen.toNat < Config.bufCap then .more (s.appended v) else .ended (.fault .bufOverflow)

/-- LEN_LOOKUP (R108): EXP_LEN from LEN_TABLE by the sensor-type byte BUF[1]; an unknown type ends the step (R109). -/
def lenLookup (s : State) : Micro :=
  match s.bufRead 1 with
  | none => .ended (.fault .bufUnwritten)
  | some t =>
    match lenTable t with
    | some n => .more (s.setExpLen n)
    | none => .ended (execTypeUnknown t s)

/-- COMPLETE (R110): copies the frame out; discards it under the DISCARD policy when bytes are left over, and else has it
validated; the framing group is reset whatever the outcome. -/
def complete (surplus : Bool) (s : State) : Result :=
  if legalLen s.expLen then
    match s.bufBlock 0 s.expLen.toNat with
    | none => .fault .bufUnwritten
    | some frame =>
      if surplus && s.params.overrunPolicy == .discard then .next (s.frameReset.emit (recOverrun frame))
      else onNext (validate frame surplus s) State.frameReset
  else .fault .expLenUnreachable

/-- One turn of R106's loop for one byte: append; look the length up once more than two bytes are there and it is
unknown; complete when the expected length is reached. -/
def byteStep (v : Byte) (surplus : Bool) (s : State) : Micro :=
  match append v s with
  | .ended r => .ended r
  | .more s1 =>
    match (if 2 < s1.bufLen.toNat && !expKnown s1.expLen then lenLookup s1 else .more s1) with
    | .ended r => .ended r
    | .more s2 =>
      if expKnown s2.expLen && s2.bufLen == s2.expLen then .ended (complete surplus s2) else .more s2

/-- R106's loop over the declared bytes in lane order. A byte has surplus bytes behind it when the list goes on; the bytes
after the one that ends the step are dropped (R114). When the bytes run out the step ends with no event (R112). -/
def byteLoop : List Byte → State → Result
  | [], s => .next s
  | v :: rest, s =>
    match byteStep v (!rest.isEmpty) s with
    | .more s' => byteLoop rest s'
    | .ended r => r

/-- FRAG_INSYNC (R106): the declared bytes, one by one. -/
def execFragInsync (f : Fragment) (s : State) : Result := byteLoop f.declared s

end Sys2Proof.Machine
end

