-- ==== Sys2Proof/Machine/Dispatch.lean ====
section
/-! DEFINITION. The meaning of every instruction: one arm for each constructor of Instr. The condition an operation's key
stands for is not tested again (log 22). -/

namespace Sys2Proof.Machine

def exec (i : Instr) (s : State) : Host.Outcome State Fault Refusal :=
  match i with
  | .reset => Sys2Proof.Machine.execReset s
  | .fragMalformed f => Sys2Proof.Machine.execFragMalformed f s
  | .fragInsync f => Sys2Proof.Machine.execFragInsync f s
  | .fragFalseStart f => Sys2Proof.Machine.execFragFalseStart f s
  | .fragMarker f => Sys2Proof.Machine.execFragMarker f s
  | .fragIdle f => Sys2Proof.Machine.execFragIdle f s
  | .syncReserved => Sys2Proof.Machine.execSyncReserved s
  | .typeRain => Sys2Proof.Machine.execTypeRain s
  | .typeTempHum => Sys2Proof.Machine.execTypeTempHum s
  | .typePressure => Sys2Proof.Machine.execTypePressure s
  | .typeUv => Sys2Proof.Machine.execTypeUv s
  | .typeWind => Sys2Proof.Machine.execTypeWind s
  | .typeStatus => Sys2Proof.Machine.execTypeStatus s
  | .typeUnknown t => Sys2Proof.Machine.execTypeUnknown t s

end Sys2Proof.Machine
end

