-- ==== Sys2Proof/Machine/Handshake.lean ====
section
/-! DEFINITION. The clocked side of WN-FSA (70_reset_and_hazards.md R230, R234, R235; 10_state.md R28, R29, R31): what one
rising edge of `clk` does around the transaction it completes, if it completes one. -/

namespace Sys2Proof.Machine

/-- The input ports in this cycle, sampled at the coming edge; a host whose list has ended drives nothing (log 2). -/
def State.portIn (s : State) : PortIn :=
  match s.inputs with
  | [] => PortIn.idle
  | p :: _ => p

/-- The operation that completes at the coming edge, if one does: RESET when `rst` is 1, which comes before everything
(R230), else the fragment in flight when its latency has run out (R235). -/
def State.edgeOp (s : State) : Option Op :=
  if s.portIn.rst then some .rst
  else if s.busy && decide (s.remaining ≤ 1) then some (.frag s.pend)
  else none

/-- The standing offer after an edge that did not accept it. An offer begins where the host raises `in_valid`, and must then
stay (R234 (a)); an `in_valid` left at 1 by the last acceptance may still change or fall freely (R234 (b), log 26). -/
def Offer.next (o : Offer) (p : PortIn) : Offer :=
  match o with
  | .none => if p.valid then .stable p.frag else .none
  | .released => if p.valid then .released else .none
  | .stable f => if p.valid && p.frag == f then .stable f else .changed
  | .changed => .changed

/-- The fragment captured at the accepting edge (R234): what the ports carry, or, when the host broke its offer, some
fragment: a free value (I13, log 12). -/
def State.captured (s : State) : Fragment :=
  match s.offer with
  | .none => s.portIn.frag
  | .released => s.portIn.frag
  | .stable f => if s.portIn.frag == f then f else Config.freeFragment s.freeIdx
  | .changed => Config.freeFragment s.freeIdx

/-- What every edge does first: it takes this cycle's inputs, advances the counter of free values, ends the event cycle
(EV_VALID is 1 for exactly one cycle, R31) and records the host's offer. -/
def State.beginEdge (s : State) : State :=
  { s with
    inputs := s.inputs.tail, freeIdx := s.freeIdx + 1, evValid := false,
    offer := Offer.next s.offer s.portIn }

/-- Holds a latency between 1 and LAT_MAX (R235: 1 ≤ k ≤ LAT_MAX). -/
def clipLatency (latMax k : Nat) : Nat := if k ≤ 1 then 1 else max 1 (min k latMax)

/-- The latency k of a transaction accepted at the coming edge (R235): the next one supplied, or a free value (log 8). -/
def State.latency (s : State) : Nat :=
  match s.latChoice with
  | [] => clipLatency s.params.latMax (Config.freeLatency s.freeIdx)
  | k :: _ => clipLatency s.params.latMax k

/-- The accepting edge (R234, R235): PEND is captured and BUSY becomes 1; the transaction completes `latency` edges
later. From here on the host may change the inputs freely (R234 (b)). -/
def State.acceptEdge (s : State) : State :=
  { s.beginEdge with
    busy := true, pend := s.captured, remaining := s.latency, latChoice := s.latChoice.tail, offer := .released }

/-- An edge inside the busy window (R235). -/
def State.waitEdge (s : State) : State := { s.beginEdge with remaining := s.remaining - 1 }

/-- The state after an edge at which no transaction completes: accepting when `in_valid = 1` and `in_ready = 1`, waiting
while BUSY = 1, else idle. -/
def State.quietEdge (s : State) : State :=
  if s.busy then s.waitEdge else if s.portIn.valid then s.acceptEdge else s.beginEdge

/-- Completion of a transaction (R235): BUSY becomes 0. PEND keeps the fragment, though its value is open while BUSY = 0
(10_state.md R29, 93_implementation_defined.md I11): DESIGN CHOICE, log 25. -/
def State.retire (s : State) : State := { s with busy := false, remaining := 0 }

end Sys2Proof.Machine
end

