-- ==== Sys2Proof/Machine/Fetch.lean ====
section
/-! DEFINITION. Placing a word of the opcode table where the next step runs it (log 18). WN-FSA fetches nothing: an
operation arises from `rst`, PEND and SYNC_CNT (30_encoding.md R75), and a type row from the frame in BUF (R90). -/

namespace Sys2Proof.Machine

/-- Cells of consecutive bytes from an address up. -/
def cellsFrom : Nat → List Byte → Memory
  | _, [] => []
  | a, b :: bs => (a, b) :: cellsFrom (a + 1) bs

/-- The next edge completes a transaction of this fragment (BUSY = 1, no edge left to wait, `rst = 0`). -/
def State.inFlight (f : Fragment) (s : State) : State :=
  { s with inputs := PortIn.idle :: s.inputs.tail, busy := true, pend := f, remaining := 1 }

/-- In sync, with these bytes buffered and this expected length. -/
def State.buffered (bytes : List Byte) (expLen : BitVec 5) (s : State) : State :=
  { s with syncCnt := 2, buf := cellsFrom 0 bytes, bufLen := BitVec.ofNat 5 bytes.length, expLen := expLen }

/-- A fragment that declares one byte. -/
def oneByte (b : Byte) : Fragment := ⟨false, 1, lanesOf [b]⟩

/-- Places an operation key: `rst` on the port for RESET, else SYNC_CNT and a fragment in flight that give the key. -/
def State.placeKey (k : BitVec 5) (s : State) : State :=
  if k.getLsbD 4 then { s with inputs := ⟨true, false, Fragment.zero⟩ :: s.inputs.tail }
  else (State.inFlight (fragmentOfKey k) s).setSyncCnt (k.extractLsb' 1 2)

/-- Places a sensor type. A known type: the frame `00 t 00 … 00 t 00`, whose checksum matches, lacks only its last byte,
which is in flight, so that the step completes, validates and dispatches it. An unknown type: `00 t` is buffered and a
third byte is in flight, so that the step looks the type up. -/
def State.placeType (t : Byte) (s : State) : State :=
  match lenTable t with
  | some n =>
    State.inFlight (oneByte 0) (s.buffered ([0, t] ++ List.replicate (n.toNat - 4) 0 ++ [t]) n)
  | none => State.inFlight (oneByte 0) (s.buffered [0, t] 0)

/-- Places a word of the opcode table; a word the table cannot hold leaves the state alone. -/
def State.placeWord (s : State) (nbits w : Nat) : State :=
  if 8 < nbits ∨ 255 < w then s
  else if isKeyWord w then s.placeKey (BitVec.ofNat 5 w)
  else s.placeType (BitVec.ofNat 8 w)

end Sys2Proof.Machine
end

