-- ==== Sys2Proof/Machine/Step.lean ====
section
/-! DEFINITION. The two step functions: the spec's transaction step, one operation (00_scope.md R14, 40_assembler.md R100),
and the machine's step, one rising edge of `clk` (70_reset_and_hazards.md R230, R234, R235). -/

namespace Sys2Proof.Machine

/-- The transaction step `step(S, op)`: decode the operation key, run the instruction (R100). Its event is the record with
EV_VALID. -/
def transact (op : Op) (s : State) : Host.Outcome State Fault Refusal :=
  exec (decodeOp s.params s.syncCnt op) s

/-- One rising edge. If an operation completes at it, the edge runs its instruction and BUSY becomes 0; else the edge
accepts, waits or idles. -/
def step (s : State) : Host.Outcome State Fault Refusal :=
  match s.edgeOp with
  | some op => onNext (transact op s.beginEdge) State.retire
  | none => .next s.quietEdge

/-- The state in which the next step runs the instruction of a word of the opcode table (log 18). -/
def State.withFetchWord (s : State) (nbits w : Nat) : State := s.placeWord nbits w

end Sys2Proof.Machine
end

