-- ==== Sys2Proof/Machine/FieldDecode.lean ====
section
/-! DEFINITION. The six decoders (43_field_decode.md R160 to R175): combinational functions of FRM_DATA, each gated by its
bit of FRM_SEL. `bN` is FRM_DATA[N]. -/

namespace Sys2Proof.Machine

/-- The `rain_*` outputs (R163). -/
structure RainOut where
  rateRaw    : BitVec 12
  oneHourRaw : BitVec 16
  dayRaw     : BitVec 16
  totalRaw   : BitVec 16
  sinceMin   : Byte
  sinceHour  : Byte
  sinceDay   : Byte
  sinceMonth : Byte
  sinceYy    : Byte
  deriving DecidableEq, Repr

/-- The `th_*` outputs (R165). -/
structure TempHumOut where
  sensorId    : BitVec 4
  location    : BitVec 2
  tempMag     : BitVec 12
  tempNeg     : Bool
  hum         : Byte
  dewValid    : Bool
  dewMag      : BitVec 12
  dewNeg      : Bool
  implausible : Bool
  deriving DecidableEq, Repr

/-- The `pr_*` outputs (R168). -/
structure PressureOut where
  rel       : BitVec 12
  abs       : BitVec 12
  fcIdx     : BitVec 4
  fcInTable : Bool
  deriving DecidableEq, Repr

/-- `uv_index` (R170). -/
structure UvOut where
  index : Byte
  deriving DecidableEq, Repr

/-- The `wd_*` outputs (R171). -/
structure WindOut where
  dirSector  : BitVec 4
  gustRaw    : BitVec 12
  avgRaw     : BitVec 12
  chillValid : Bool
  chillRaw   : BitVec 12
  deriving DecidableEq, Repr

/-- The `st_*` clock and flag outputs (R173). -/
structure StatusOut where
  clkMin    : Byte
  clkHour   : Byte
  clkDay    : Byte
  clkMonth  : Byte
  clkYy     : Byte
  powered   : Bool
  radioSync : Bool
  radioLow  : Bool
  deriving DecidableEq, Repr

/-- A group whose select bit is 0 reads 0 (R175). -/
def RainOut.zero : RainOut := ⟨0, 0, 0, 0, 0, 0, 0, 0, 0⟩
def TempHumOut.zero : TempHumOut := ⟨0, 0, 0, false, 0, false, 0, false, false⟩
def PressureOut.zero : PressureOut := ⟨0, 0, 0, false⟩
def UvOut.zero : UvOut := ⟨0⟩
def WindOut.zero : WindOut := ⟨0, 0, 0, false, 0⟩
def StatusOut.zero : StatusOut := ⟨0, 0, 0, 0, 0, false, false, false⟩

/-- DEC_RAIN (R163). -/
def decRain (d : Vector Byte 17) : RainOut where
  rateRaw    := pair12 d[3] d[2]
  oneHourRaw := pair16 d[5] d[4]
  dayRaw     := pair16 d[7] d[6]
  totalRaw   := pair16 d[9] d[8]
  sinceMin   := d[10]
  sinceHour  := d[11]
  sinceDay   := d[12]
  sinceMonth := d[13]
  sinceYy    := d[14]

/-- `th_location` (R165, D25): 0 indoor (id 0), 1 outdoor (id 1), 2 extra sensor. -/
def thLocation (id : BitVec 4) : BitVec 2 := if id = 0 then 0 else if id = 1 then 1 else 2

/-- `th_implausible` (R167): the magnitude, in tenths, is above 1000. -/
def thImplausible (mag : BitVec 12) : Bool := decide (1000 < mag.toNat)

/-- DEC_TEMP_HUM (R165): the dew point exists for sensor id 1 only. -/
def decTempHum (d : Vector Byte 17) : TempHumOut where
  sensorId    := loNibble d[2]
  location    := thLocation (loNibble d[2])
  tempMag     := pair12 d[4] d[3]
  tempNeg     := d[4].getLsbD 7
  hum         := d[5]
  dewValid    := loNibble d[2] == 1
  dewMag      := if loNibble d[2] = 1 then pair12 d[7] d[6] else 0
  dewNeg      := loNibble d[2] == 1 && d[7].getLsbD 7
  implausible := thImplausible (pair12 d[4] d[3])

/-- DEC_PRESSURE (R168). -/
def decPressure (d : Vector Byte 17) : PressureOut where
  rel       := pair12 d[5] d[4]
  abs       := pair12 d[3] d[2]
  fcIdx     := hiNibble d[3]
  fcInTable := decide ((hiNibble d[3]).toNat < 7)

/-- DEC_UV (R170). -/
def decUv (d : Vector Byte 17) : UvOut := ⟨d[3]⟩

/-- DEC_WIND (R171): b8 = 0x20, the whole byte, is the "no chill" sentinel. -/
def decWind (d : Vector Byte 17) : WindOut where
  dirSector  := loNibble d[2]
  gustRaw    := pair12 d[5] d[4]
  avgRaw     := windAvg12 d[6] d[5]
  chillValid := d[8] != 0x20
  chillRaw   := if d[8] = 0x20 then 0 else pair12 d[8] d[7]

/-- DEC_STATUS (R173). -/
def decStatus (d : Vector Byte 17) : StatusOut where
  clkMin    := d[4]
  clkHour   := d[5]
  clkDay    := d[6]
  clkMonth  := d[7]
  clkYy     := d[8]
  powered   := !notPowered d[0]
  radioSync := Machine.radioSync d[0]
  radioLow  := Machine.radioLow d[0]

/-- Every decoded output (R175), one group for each bit of FRM_SEL. -/
structure Decoded where
  rain     : RainOut
  tempHum  : TempHumOut
  pressure : PressureOut
  uv       : UvOut
  wind     : WindOut
  status   : StatusOut
  deriving DecidableEq, Repr

/-- The decoded outputs of an event record: 0 unless the group's select bit is set (R175). -/
def decoded (r : EventRecord) : Decoded where
  rain     := if r.frmSel.getLsbD 0 then decRain r.frmData else RainOut.zero
  tempHum  := if r.frmSel.getLsbD 1 then decTempHum r.frmData else TempHumOut.zero
  pressure := if r.frmSel.getLsbD 2 then decPressure r.frmData else PressureOut.zero
  uv       := if r.frmSel.getLsbD 3 then decUv r.frmData else UvOut.zero
  wind     := if r.frmSel.getLsbD 4 then decWind r.frmData else WindOut.zero
  status   := if r.frmSel.getLsbD 5 then decStatus r.frmData else StatusOut.zero

/-- The battery level (R160) has two values and no third (D24). -/
inductive BatteryLevel where
  | low
  | high
  deriving DecidableEq, Repr

/-- The battery level of a flags byte (R160). -/
def batteryLevel (b0 : Byte) : BatteryLevel := if batteryLow b0 then .low else .high

/-- The battery feed of an event (42_dispatch.md R153): on FRAME_OK the whole byte 0, its battery bit and the device label,
which is FRM_TYPE and, for type 0x42, th_sensor_id; no feed on any other event. -/
structure BatteryFeed where
  byte0    : Byte
  low      : Bool
  frmType  : Byte
  sensorId : Option (BitVec 4)
  deriving DecidableEq, Repr

/-- The feed a record carries (R153). -/
def batteryFeed (r : EventRecord) : Option BatteryFeed :=
  if r.evCode = EventCode.frameOk.bits then
    some ⟨r.frmData[0], r.batLow, r.frmType,
      if r.frmType = 0x42 then some (decoded r).tempHum.sensorId else none⟩
  else none

end Sys2Proof.Machine
end

