-- ==== Sys2Proof/Machine/Convert.lean ====
section
/-! DEFINITION. The reference conversions CONV_* (43_field_decode.md R161, R162, R164, R166, R169, R172, R174). They are the
contract of the DOWNSTREAM consumer and no part of WN-FSA (00_scope.md R6): no State field, no instruction, no port and no
step uses them (log 21). A value "rounded to one decimal" is held exactly, as its number of tenths. -/

namespace Sys2Proof.Downstream

open Sys2Proof.Machine

/-- ROUND_TIES (92_eei_decisions.md D34): the two tie rules the spec names; the default is away from zero. -/
inductive RoundTies where
  | awayFromZero
  | halfEven
  deriving DecidableEq, Repr

/-- The integer nearest to `n / d`, for d above 0. -/
def roundQuot (ties : RoundTies) (n : Int) (d : Nat) : Int :=
  let q := n / d
  let r := n % d
  if 2 * r < d then q
  else if d < 2 * r then q + 1
  else
    match ties with
    | .awayFromZero => if 0 ≤ n then q + 1 else q
    | .halfEven => if q % 2 = 0 then q else q + 1

/-- `round1(n / d)` in tenths (R161): the multiple of 1/10 nearest to `n / d`. -/
def round1 (ties : RoundTies) (n : Int) (d : Nat) : Int := roundQuot ties (10 * n) d

/-- `scaled(hi, lo, num/den)` in tenths (R162). -/
def scaled (ties : RoundTies) (hi lo : Byte) (num : Int) (den : Nat) : Int :=
  round1 ties (((hi.toNat * 256 + lo.toNat : Nat) : Int) * num) den

/-- A date and time; the fields are the raw bytes, unchecked (R174, D26), the year 2000 + its byte. -/
structure Stamp where
  minute : Nat
  hour   : Nat
  day    : Nat
  month  : Nat
  year   : Nat
  deriving DecidableEq, Repr

/-- A stamp from the five bytes minute, hour, day, month and year − 2000. -/
def stampOf (minute hour day month yy : Byte) : Stamp :=
  ⟨minute.toNat, hour.toNat, day.toNat, month.toNat, 2000 + yy.toNat⟩

/-- Rain values, in tenths. -/
structure RainConv where
  rainRate   : Int
  last1h     : Int
  last24h    : Int
  total      : Int
  totalSince : Stamp
  deriving DecidableEq, Repr

/-- CONV_RAIN (R164): the factor is 0.254 = 127/500. -/
def convRain (ties : RoundTies) (o : RainOut) : RainConv where
  rainRate   := round1 ties (o.rateRaw.toNat * 127) 500
  last1h     := round1 ties (o.oneHourRaw.toNat * 127) 500
  last24h    := round1 ties (o.dayRaw.toNat * 127) 500
  total      := round1 ties (o.totalRaw.toNat * 127) 500
  totalSince := stampOf o.sinceMin o.sinceHour o.sinceDay o.sinceMonth o.sinceYy

/-- A sign-magnitude field as an integer; negative zero gives 0 (R166, D35). -/
def signed (neg : Bool) (mag : BitVec 12) : Int := if neg then -(mag.toNat : Int) else mag.toNat

/-- Temperature and dew point in tenths, humidity as it is. -/
structure TempHumConv where
  temperature : Int
  humidity    : Nat
  dewpoint    : Option Int
  deriving DecidableEq, Repr

/-- CONV_TEMP_HUM (R166). -/
def convTempHum (o : TempHumOut) : TempHumConv where
  temperature := signed o.tempNeg o.tempMag
  humidity    := o.hum.toNat
  dewpoint    := if o.dewValid then some (signed o.dewNeg o.dewMag) else none

/-- The forecast strings that are not in the source (R169, 93_implementation_defined.md I3), supplied by the consumer. -/
structure ForecastStrings where
  s0 : String
  s1 : String
  s2 : String
  s3 : String
  s5 : String
  deriving DecidableEq, Repr

/-- The forecast of an index (R169): 4 and 6 are "unknown"; 7 to 15 have no entry, and a consumer without a choice does not
convert (I4). -/
def forecast (t : ForecastStrings) (idx : BitVec 4) : Option String :=
  match idx.toNat with
  | 0 => some t.s0
  | 1 => some t.s1
  | 2 => some t.s2
  | 3 => some t.s3
  | 4 => some "unknown"
  | 5 => some t.s5
  | 6 => some "unknown"
  | _ => none

/-- Pressure values, unscaled. -/
structure PressureConv where
  relative : Nat
  absolute : Nat
  forecast : Option String
  deriving DecidableEq, Repr

/-- CONV_PRESSURE (R169). -/
def convPressure (t : ForecastStrings) (o : PressureOut) : PressureConv where
  relative := o.rel.toNat
  absolute := o.abs.toNat
  forecast := Downstream.forecast t o.fcIdx

/-- The UV conversion is the identity (R170). -/
def convUv (o : UvOut) : Nat := o.index.toNat

/-- Wind values, in tenths. -/
structure WindConv where
  direction : Nat
  gust      : Nat
  average   : Nat
  windChill : Option Int
  deriving DecidableEq, Repr

/-- CONV_WIND (R172): direction = sector·360/16 degrees = 225·sector tenths; windChill = round1((raw − 320)/18). -/
def convWind (ties : RoundTies) (o : WindOut) : WindConv where
  direction := 225 * o.dirSector.toNat
  gust      := o.gustRaw.toNat
  average   := o.avgRaw.toNat
  windChill := if o.chillValid then some (round1 ties ((o.chillRaw.toNat : Int) - 320) 18) else none

/-- Status values; the radio signal is "low" or "high". -/
structure StatusConv where
  internalClock : Stamp
  powered       : Bool
  radioSync     : Bool
  radioSignal   : String
  deriving DecidableEq, Repr

/-- CONV_STATUS (R174). -/
def convStatus (o : StatusOut) : StatusConv where
  internalClock := stampOf o.clkMin o.clkHour o.clkDay o.clkMonth o.clkYy
  powered       := o.powered
  radioSync     := o.radioSync
  radioSignal   := if o.radioLow then "low" else "high"

end Sys2Proof.Downstream
end

