-- ==== Sys2Proof/Machine/FrameEncode.lean ====
section
/-! DEFINITION. The frame layouts read the other way (30_encoding.md R77, R79 to R85): raw field values placed into the bytes
of a frame with a matching checksum, as 43_field_decode.md R176 asks. The arguments named `x…` are the bits no field
decoder reads ("unused" in the tables); they may hold anything and count in the checksum only. -/

namespace Sys2Proof.Machine

/-- A frame's bytes b0 to b(L−3) followed by their checksum, low byte first (R77, 41_validator.md R130). -/
def sealFrame (pre : List Byte) : List Byte :=
  let c : BitVec 16 := BitVec.ofNat 16 (byteSum pre % Config.csumMod)
  pre ++ [c.extractLsb' 0 8, c.extractLsb' 8 8]

/-- The low byte of a 12-bit or 16-bit field. -/
def lowByte {n : Nat} (v : BitVec n) : Byte := v.extractLsb' 0 8
/-- The high byte of a 16-bit field. -/
def highByte (v : BitVec 16) : Byte := v.extractLsb' 8 8
/-- The byte that carries bits 11 to 8 of a 12-bit field in its low nibble. -/
def highNibbleByte (x : BitVec 4) (v : BitVec 12) : Byte := x ++ v.extractLsb' 8 4
/-- A byte of sign, three other bits, and bits 11 to 8 of a sign-magnitude field. -/
def signByte (neg : Bool) (x : BitVec 3) (v : BitVec 12) : Byte := BitVec.ofBool neg ++ x ++ v.extractLsb' 8 4

/-- A Rain frame, L = 17 (R80). -/
def rainFrame (b0 : Byte) (x3 : BitVec 4) (o : RainOut) : List Byte :=
  sealFrame [b0, 0x41, lowByte o.rateRaw, highNibbleByte x3 o.rateRaw, lowByte o.oneHourRaw, highByte o.oneHourRaw,
    lowByte o.dayRaw, highByte o.dayRaw, lowByte o.totalRaw, highByte o.totalRaw,
    o.sinceMin, o.sinceHour, o.sinceDay, o.sinceMonth, o.sinceYy]

/-- The values a Temperature/Humidity frame can carry. -/
structure TempHumRaw where
  sensorId : BitVec 4
  tempMag  : BitVec 12
  tempNeg  : Bool
  hum      : Byte
  dewMag   : BitVec 12
  dewNeg   : Bool
  deriving DecidableEq, Repr

/-- A Temperature/Humidity frame, L = 12 (R81). -/
def tempHumFrame (b0 : Byte) (x2 : BitVec 4) (x4 x7 : BitVec 3) (x8 x9 : Byte) (o : TempHumRaw) : List Byte :=
  sealFrame [b0, 0x42, x2 ++ o.sensorId, lowByte o.tempMag, signByte o.tempNeg x4 o.tempMag, o.hum,
    lowByte o.dewMag, signByte o.dewNeg x7 o.dewMag, x8, x9]

/-- A Pressure frame, L = 8 (R82). -/
def pressureFrame (b0 : Byte) (x5 : BitVec 4) (rel abs : BitVec 12) (fcIdx : BitVec 4) : List Byte :=
  sealFrame [b0, 0x46, lowByte abs, highNibbleByte fcIdx abs, lowByte rel, highNibbleByte x5 rel]

/-- A UV frame, L = 6 (R83). -/
def uvFrame (b0 x2 index : Byte) : List Byte := sealFrame [b0, 0x47, x2, index]

/-- A Wind frame, L = 11, with the bytes b7 and b8 of the wind chill given (R84). -/
def windFrame (b0 : Byte) (x2 : BitVec 4) (x3 : Byte) (dir : BitVec 4) (gust avg : BitVec 12) (b7 b8 : Byte) :
    List Byte :=
  sealFrame [b0, 0x48, x2 ++ dir, x3, lowByte gust, avg.extractLsb' 0 4 ++ gust.extractLsb' 8 4, avg.extractLsb' 4 8,
    b7, b8]

/-- The flags byte of a Status frame (R79): not powered, battery low, radio sync, radio signal low, and four bits nothing
reads. -/
def statusFlags (powered batLow radioSync radioLow : Bool) (x : BitVec 4) : Byte :=
  BitVec.ofBool (!powered) ++ BitVec.ofBool batLow ++ BitVec.ofBool radioSync ++ BitVec.ofBool radioLow ++ x

/-- A Status frame, L = 12 (R85). -/
def statusFrame (batLow : Bool) (x0 : BitVec 4) (x2 x3 x9 : Byte) (o : StatusOut) : List Byte :=
  sealFrame [statusFlags o.powered batLow o.radioSync o.radioLow x0, 0x60, x2, x3,
    o.clkMin, o.clkHour, o.clkDay, o.clkMonth, o.clkYy, x9]

end Sys2Proof.Machine
end

