-- ==== Sys2Proof/Machine/Script.lean ====
section
/-! DEFINITION. The fragment-script notation (30_encoding.md R89), and runs of whole operations, the spec's transaction
level (00_scope.md R14, 20_memory.md R58). -/

namespace Sys2Proof.Machine

/-- A fragment with these declared bytes, at most 19; the lanes after them are 00. -/
def fragOf (ds : List Byte) : Fragment := ⟨false, BitVec.ofNat 5 ds.length, lanesOf ds⟩

/-- A script line (R89). -/
inductive Script where
  /-- `RST` -/
  | rst
  /-- `FRAG d0 … d(n−1)` -/
  | frag (ds : List Byte)
  /-- `FRAG/n d0 … d(m−1)` -/
  | fragN (n : BitVec 5) (ds : List Byte)
  /-- `BAD` -/
  | bad
  deriving DecidableEq, Repr

/-- The operation of a script line. -/
def Script.op : Script → Op
  | .rst => .rst
  | .frag ds => .frag (fragOf ds)
  | .fragN n ds => .frag ⟨false, n, lanesOf ds⟩
  | .bad => .frag ⟨true, 0, lanesOf []⟩

/-- The port samples of a script line: `rst` or `in_valid` for one edge. -/
def Script.portIn (l : Script) : PortIn :=
  match l.op with
  | .rst => ⟨true, false, Fragment.zero⟩
  | .frag f => ⟨false, true, f⟩

/-- The pseudo-operation `SYNC`. -/
def syncScript : List Script := [.frag [0xFF], .frag [0xFF]]

/-- The pseudo-operation `FRAME d0 … d(n−1)`. -/
def frameScript (ds : List Byte) : List Script := syncScript ++ [.frag ds]

/-- EV_VALID back to 0: a transaction starts with no event of its own (10_state.md R31). -/
def State.clearEvent (s : State) : State := { s with evValid := false }

/-- The event a transaction left: its record, if EV_VALID is 1. -/
def State.event (s : State) : Option EventRecord := if s.evValid then some s.record else none

/-- One transaction after the event cycle of the one before it. -/
def transaction (op : Op) (s : State) : Result := transact op s.clearEvent

/-- Operations in acceptance order, one at a time (20_memory.md R58). -/
def runOps : List Op → State → Result
  | [], s => .next s
  | op :: ops, s =>
    match transaction op s with
    | .next s' => runOps ops s'
    | .fault e => .fault e
    | .refused e => .refused e

/-- Edges of the clock: the machine's own steps. -/
def runEdges : Nat → State → Result
  | 0, s => .next s
  | n + 1, s =>
    match step s with
    | .next s' => runEdges n s'
    | .fault e => .fault e
    | .refused e => .refused e

end Sys2Proof.Machine
end

