-- ==== Sys2Proof/Machine/Ports.lean ====
section
/-! DEFINITION. The output ports in the current cycle (30_encoding.md R71), functions of the state and of `rst`. No read has
a side effect (20_memory.md R56). -/

namespace Sys2Proof.Machine

/-- `in_ready` (10_state.md R28): not BUSY, and 0 while `rst` is asserted. -/
def State.inReady (s : State) : Bool := !s.busy && !s.portIn.rst

/-- `ev_valid` (R31), 0 while `rst` is asserted (70_reset_and_hazards.md R230). -/
def State.evValidOut (s : State) : Bool := s.evValid && !s.portIn.rst

/-- What the record's ports show: the record in the event cycle; at any other time its value is unspecified (R30, I10), a
free value (log 6). -/
def State.recordOut (s : State) : EventRecord := if s.evValidOut then s.record else Config.freeRecord s.freeIdx

/-- The output ports. -/
structure PortOut where
  inReady    : Bool
  evValid    : Bool
  /-- `ev_code`, `ev_surplus`, `frm_*`, `ev_flush`, `ev_bat_low` -/
  record     : EventRecord
  /-- `rain_*`, `th_*`, `pr_*`, `uv_*`, `wd_*`, `st_*` of the decoders -/
  fields     : Decoded
  csumErrCnt : BitVec 32
  stSync     : BitVec 2
  stLen      : BitVec 5
  stExp      : BitVec 5
  deriving DecidableEq, Repr

/-- The output ports in this cycle. The decoded fields are functions of the record the ports show (R32); the counter and
the framing group are shown at all times (R27, R33). -/
def State.ports (s : State) : PortOut where
  inReady    := s.inReady
  evValid    := s.evValidOut
  record     := s.recordOut
  fields     := decoded s.recordOut
  csumErrCnt := s.csumErrCnt
  stSync     := s.syncCnt
  stLen      := s.bufLen
  stExp      := s.expLen

/-- What a host sees that samples the event port in this cycle (70_reset_and_hazards.md R236): no event, an event with its
code, or a reserved code, on which a model faults (93_implementation_defined.md I17, log 14). -/
def State.observeEvent (s : State) : Except Fault (Option (EventCode × EventRecord)) :=
  if s.evValidOut then
    match eventOfBits s.record.evCode with
    | some c => .ok (some (c, s.record))
    | none => .error .eventCodeReserved
  else .ok none

end Sys2Proof.Machine
end

