-- ==== Sys2Proof/Safety.lean ====
section
/-! DEFINITION. What claims call a good state and a safe step. -/

namespace Sys2Proof.Machine

/-- The framing invariants of 10_state.md R21 and R25, with what R22 and R24 say of BUF and EXP_LEN between steps. -/
structure FramingInv (s : State) : Prop where
  /-- R21: SYNC_CNT is 0, 1 or 2 -/
  syncLegal : s.syncCnt ≠ 3
  /-- R25 (a) -/
  searching : s.syncCnt ≠ 2 → s.bufLen = 0 ∧ s.expLen = 0
  /-- R25 (b) -/
  unknownLength : s.expLen = 0 → s.bufLen.toNat ≤ 2
  /-- R25 (c) -/
  knownLength : s.expLen ≠ 0 → 3 ≤ s.bufLen.toNat ∧ s.bufLen.toNat < s.expLen.toNat
  /-- R22: the written entries of BUF are BUF[0] to BUF[BUF_LEN − 1] -/
  written : s.buf.map Prod.fst = List.range s.bufLen.toNat
  /-- R24: a known EXP_LEN is the LEN_TABLE entry of the sensor-type byte -/
  fromTable : s.expLen ≠ 0 → ∃ t, s.bufRead 1 = some t ∧ lenTable t = some s.expLen

/-- The one-hot FRM_SEL of a type row (42_dispatch.md R140); an unknown type selects nothing. -/
def selOf : TypeRow → BitVec 6
  | .rain => 0b000001
  | .tempHum => 0b000010
  | .pressure => 0b000100
  | .uv => 0b001000
  | .wind => 0b010000
  | .status => 0b100000
  | .unknown _ => 0

/-- A FRM_SEL with exactly one of its six bits set (42_dispatch.md R154). -/
def oneHot (v : BitVec 6) : Bool := [1, 2, 4, 8, 16, 32].contains v

/-- The frame a record carries: FRM_DATA[0] to FRM_DATA[FRM_LEN − 1] (10_state.md R30). -/
def carriedFrame (r : EventRecord) : List Byte := r.frmData.toList.take r.frmLen.toNat

/-- What R148 to R152 and R154 say of every record that an event carries. -/
structure RecordInv (r : EventRecord) : Prop where
  /-- R200: codes 0, 6 and 7 are never produced -/
  produced : ∃ c : EventCode, r.evCode = c.bits
  /-- R148, R140, R154: on FRAME_OK the select bit, the flush strobe and the battery flag are those of the frame -/
  ok : r.evCode = EventCode.frameOk.bits →
    r.frmSel = selOf (typeRow r.frmType) ∧ oneHot r.frmSel = true ∧ r.flush = decide (r.frmType = 0x60) ∧
    r.batLow = batteryLow r.frmData[0] ∧ r.csumRx = r.csumCalc ∧ lenTable r.frmType = some r.frmLen
  /-- R149: on CSUM_ERR the two checksums differ -/
  mismatch : r.evCode = EventCode.csumErr.bits → r.csumRx ≠ r.csumCalc
  /-- R148, R149, R130: on FRAME_OK and CSUM_ERR the checksums are those of the frame carried -/
  validated : r.evCode = EventCode.frameOk.bits ∨ r.evCode = EventCode.csumErr.bits →
    r.csumRx = rxChecksum (carriedFrame r) ∧ r.csumCalc = calcChecksum (carriedFrame r)
  /-- R150 to R152: on the events of no validation both checksums are 0 -/
  unvalidated : r.evCode ≠ EventCode.frameOk.bits → r.evCode ≠ EventCode.csumErr.bits →
    r.csumRx = 0 ∧ r.csumCalc = 0
  /-- R149 to R152, R154: on every other event no decoder is selected, nothing is flushed, no battery flag is given -/
  other : r.evCode ≠ EventCode.frameOk.bits → r.frmSel = 0 ∧ r.flush = false ∧ r.batLow = false

/-- The invariant of the whole machine: the framing group, the handshake (10_state.md R28; 70_reset_and_hazards.md R235),
the parameters (00_scope.md R7: LAT_MAX is at least 1) and the event in its cycle. -/
structure Inv (s : State) : Prop where
  framing : FramingInv s
  /-- a transaction in flight has between 1 and LAT_MAX edges left -/
  window : s.busy = true → 1 ≤ s.remaining ∧ s.remaining ≤ s.params.latMax
  latMax : 1 ≤ s.params.latMax
  event : s.evValid = true → RecordInv s.record

/-- A step that answers a next state. -/
def SafeStep (s : State) : Prop := ∃ t, step s = .next t

end Sys2Proof.Machine
end

