-- ==== Sys2Proof/Certificates/Slice0/Obligations.lean ====
section
/-! DEFINITION. The statements for the provers, and the spec's own words they are written in. -/

namespace Sys2Proof.Claims

open Sys2Proof.Machine

/-- The valid bytes of BUF, in order (10_state.md R22). -/
def bytesOf (s : State) : List Byte := s.buf.map Prod.snd

/-- The bytes of the frame once an in-sync fragment's declared bytes are appended. -/
def soFar (f : Fragment) (s : State) : List Byte := bytesOf s ++ f.declared

/-- A well-formed fragment (30_encoding.md R74 negated). -/
def GoodFragment (f : Fragment) : Prop := f.err = false ∧ f.count.toNat ≤ 19

/-- A marker fragment (R73). -/
def IsMarker (p : Config.Params) (f : Fragment) : Prop :=
  f.lanes[0] = 0xFF ∧ (1 ≤ f.count.toNat ∨ p.gateMarkerByCount = false)

/-- FRM_LEN bytes of FRM_DATA are these, the rest 0 (10_state.md R30). -/
def CarriesBytes (r : EventRecord) (bytes : List Byte) : Prop :=
  r.frmLen.toNat = bytes.length ∧ ∀ j : Fin 17, r.frmData[j] = bytes.getD j 0

/-- The received checksum, low byte first (41_validator.md R130). -/
def received (frame : List Byte) : Nat :=
  (frame.getD (frame.length - 2) 0).toNat + 256 * (frame.getD (frame.length - 1) 0).toNat

/-- The sum of the bytes before the checksum (R130). -/
def summed (frame : List Byte) : Nat := ((frame.take (frame.length - 2)).map BitVec.toNat).sum

/-- The framing group after a frame reset, with BUF unreadable (40_assembler.md R111). -/
def FramingCleared (s : State) : Prop :=
  s.syncCnt = 0 ∧ s.bufLen = 0 ∧ s.expLen = 0 ∧ ∀ a, s.bufRead a = none

/-- The framing group and every byte of BUF are the same. -/
def SameFraming (s t : State) : Prop :=
  t.syncCnt = s.syncCnt ∧ t.bufLen = s.bufLen ∧ t.expLen = s.expLen ∧ ∀ a, t.bufRead a = s.bufRead a

/-- What no transaction of a fragment writes: the handshake, the parameters and the model's own fields. -/
def SameRest (s t : State) : Prop :=
  t.busy = s.busy ∧ t.pend = s.pend ∧ t.params = s.params ∧ t.inputs = s.inputs ∧ t.offer = s.offer ∧
  t.remaining = s.remaining ∧ t.latChoice = s.latChoice ∧ t.freeIdx = s.freeIdx

/-- No event was written. -/
def SameEvent (s t : State) : Prop := t.evValid = s.evValid ∧ t.record = s.record

/-- The frame an in-sync fragment completes: `n` bytes long by LEN_TABLE, and the fragment reaches its end. -/
def Completes (f : Fragment) (s : State) (n : BitVec 5) : Prop :=
  lenTable ((soFar f s).getD 1 0) = some n ∧ n.toNat ≤ (soFar f s).length

/-- The frame completed. -/
def frameOf (f : Fragment) (s : State) (n : BitVec 5) : List Byte := (soFar f s).take n.toNat

/-- The completing fragment has surplus bytes (40_assembler.md R110). -/
def surplusOf (f : Fragment) (s : State) (n : BitVec 5) : Bool := decide (n.toNat < (soFar f s).length)

/-- In sync, nothing buffered: the next declared byte is b0. -/
def FreshInSync (s : State) : Prop := s.syncCnt = 2 ∧ s.buf = [] ∧ s.bufLen = 0 ∧ s.expLen = 0

end Sys2Proof.Claims

open Sys2Proof Sys2Proof.Machine Sys2Proof.Claims

/-! ### The operations -/

/-- R36 (and R101): the power-reset value of every element that has one; nothing is said of PEND and the event record,
which R36 leaves unspecified. The parameters and the host's coming inputs are not the block's and stay. -/
def Obligations.ResetGivesTheResetValues : Prop :=
  (∀ s : State, ∃ t, exec .reset s = .next t ∧ FramingCleared t ∧ t.csumErrCnt = 0 ∧ t.busy = false ∧
    t.evValid = false ∧ t.params = s.params ∧ t.inputs = s.inputs) ∧
  (FramingCleared State.reset ∧ State.reset.csumErrCnt = 0 ∧ State.reset.busy = false ∧ State.reset.evValid = false)

/-- R102, R151: a malformed fragment, in any state, is reported and changes nothing else. -/
def Obligations.MalformedFragmentIsReportedAndTransparent : Prop :=
  ∀ (f : Fragment) (s : State),
    exec (.fragMalformed f) s = .next { s with evValid := true, record := { EventRecord.zero with evCode := 4 } } ∧
    ((f.err = true ∨ 20 ≤ f.count.toNat) → transact (.frag f) s = exec (.fragMalformed f) s)

/-- R103: SYNC_CNT = 0 and no marker: no effect. -/
def Obligations.IdleFragmentHasNoEffect : Prop :=
  ∀ (f : Fragment) (s : State), exec (.fragIdle f) s = .next s ∧
    (s.syncCnt = 0 → GoodFragment f → ¬ IsMarker s.params f → transact (.frag f) s = exec (.fragIdle f) s)

/-- R104: a marker while searching adds one to SYNC_CNT and nothing else. R104 speaks of SYNC_CNT 0 and 1, the last two
clauses; that `exec` adds one modulo 4 at 2 and 3 too, as the first clause says, is the model's choice (log 22). -/
def Obligations.MarkerFragmentCounts : Prop :=
  ∀ (f : Fragment) (s : State),
    exec (.fragMarker f) s = .next { s with syncCnt := s.syncCnt + 1 } ∧
    (GoodFragment f → IsMarker s.params f → (s.syncCnt = 0 ∨ s.syncCnt = 1) →
      transact (.frag f) s = exec (.fragMarker f) s) ∧
    (s.syncCnt = 0 → exec (.fragMarker f) s = .next { s with syncCnt := 1 }) ∧
    (s.syncCnt = 1 → exec (.fragMarker f) s = .next { s with syncCnt := 2 })

/-- R105: no marker at SYNC_CNT = 1: SYNC_CNT to 0 and nothing else. -/
def Obligations.FalseStartClearsTheCount : Prop :=
  ∀ (f : Fragment) (s : State), exec (.fragFalseStart f) s = .next { s with syncCnt := 0 } ∧
    (s.syncCnt = 1 → GoodFragment f → ¬ IsMarker s.params f → transact (.frag f) s = exec (.fragFalseStart f) s)

/-- R117: SYNC_CNT = 3 is a fault; the tests before it in R100's chain (reset, malformed) still come first. -/
def Obligations.ReservedSyncCountFaults : Prop :=
  (∀ s : State, exec .syncReserved s = .fault .syncUnreachable) ∧
  ∀ (f : Fragment) (s : State), s.syncCnt = 3 → GoodFragment f → transact (.frag f) s = .fault .syncUnreachable

/-- R100: the chain of operations a transaction chooses from. -/
def Obligations.TransactionFollowsTheChain : Prop :=
  ∀ s : State, transact .rst s = exec .reset s ∧
    ∀ f : Fragment, transact (.frag f) s =
      if f.malformed then exec (.fragMalformed f) s
      else if s.syncCnt = 2 then exec (.fragInsync f) s
      else if s.syncCnt = 1 ∧ f.marker s.params = false then exec (.fragFalseStart f) s
      else if s.syncCnt.toNat ≤ 1 ∧ f.marker s.params = true then exec (.fragMarker f) s
      else if s.syncCnt = 0 then exec (.fragIdle f) s
      else exec .syncReserved s

/-- R73 and R74: what makes a fragment a marker, and what makes it malformed. -/
def Obligations.MarkerAndMalformedTests : Prop :=
  ∀ (p : Config.Params) (f : Fragment), (f.marker p = true ↔ IsMarker p f) ∧
    (f.malformed = true ↔ (f.err = true ∨ 19 < f.count.toNat))

/-- R118: an in-sync fragment that declares nothing leaves the state unchanged, under both values of
GATE_MARKER_BY_COUNT (the parameters of `s` are any). -/
def Obligations.EmptyInSyncFragmentHasNoEffect : Prop :=
  ∀ (f : Fragment) (s : State), f.count = 0 → exec (.fragInsync f) s = .next s ∧
    (f.err = false → s.syncCnt = 2 → transact (.frag f) s = .next s)

/-- R106: in sync, every fragment completes, from every state that meets R25's invariants; what no fragment writes stays;
the counter stays or, with a CSUM_ERR event, goes up by one. -/
def Obligations.InSyncFragmentAlwaysCompletes : Prop :=
  ∀ (f : Fragment) (s : State), FramingInv s → ∃ t, exec (.fragInsync f) s = .next t ∧ SameRest s t ∧
    (GoodFragment f → s.syncCnt = 2 → transact (.frag f) s = .next t) ∧
    (t.csumErrCnt = s.csumErrCnt ∨
      (t.csumErrCnt = s.csumErrCnt + 1 ∧ t.evValid = true ∧ t.record.evCode = 2))

/-- R112: the frame is not complete yet. The declared bytes are stored at BUF_LEN and after, every byte below BUF_LEN stays,
BUF_LEN counts them, EXP_LEN is the table's entry from the third byte on, and nothing else changes. -/
def Obligations.IncompleteFragmentIsKept : Prop :=
  ∀ (f : Fragment) (s : State), FramingInv s →
    ((soFar f s).length ≤ 2 ∨ ∃ n, lenTable ((soFar f s).getD 1 0) = some n ∧ (soFar f s).length < n.toNat) →
    ∃ t, exec (.fragInsync f) s = .next t ∧ t.syncCnt = s.syncCnt ∧ t.csumErrCnt = s.csumErrCnt ∧ SameEvent s t ∧
      SameRest s t ∧ t.bufLen.toNat = s.bufLen.toNat + f.declared.length ∧
      (∀ a, a < s.bufLen.toNat → t.bufRead a = s.bufRead a) ∧
      (∀ i, t.bufRead (s.bufLen.toNat + i) = f.declared[i]?) ∧
      (if (soFar f s).length ≤ 2 then t.expLen = 0 else lenTable ((soFar f s).getD 1 0) = some t.expLen)

/-- R109, R150: an unknown type byte at the third byte of a frame discards the frame and reports it. -/
def Obligations.UnknownTypeDiscardsTheFrame : Prop :=
  ∀ (f : Fragment) (s : State), FramingInv s → 3 ≤ (soFar f s).length → lenTable ((soFar f s).getD 1 0) = none →
    ∃ t, exec (.fragInsync f) s = .next t ∧ FramingCleared t ∧ t.csumErrCnt = s.csumErrCnt ∧ SameRest s t ∧
      t.evValid = true ∧ t.record.evCode = 3 ∧ t.record.surplus = false ∧
      t.record.frmType = (soFar f s).getD 1 0 ∧ CarriesBytes t.record ((soFar f s).take 3) ∧
      t.record.csumRx = 0 ∧ t.record.csumCalc = 0 ∧ t.record.frmSel = 0 ∧ t.record.flush = false ∧
      t.record.batLow = false

/-- R148, R140: a complete frame whose checksum matches gives FRAME_OK with its record, and the frame reset. -/
def Obligations.MatchingFrameIsDispatched : Prop :=
  ∀ (f : Fragment) (s : State) (n : BitVec 5), FramingInv s → Completes f s n →
    ¬ (surplusOf f s n = true ∧ s.params.overrunPolicy = .discard) →
    received (frameOf f s n) = summed (frameOf f s n) →
    ∃ t, exec (.fragInsync f) s = .next t ∧ FramingCleared t ∧ t.csumErrCnt = s.csumErrCnt ∧ SameRest s t ∧
      t.evValid = true ∧ t.record.evCode = 1 ∧ t.record.surplus = surplusOf f s n ∧
      t.record.frmType = (frameOf f s n).getD 1 0 ∧ (frameOf f s n).length = n.toNat ∧
      CarriesBytes t.record (frameOf f s n) ∧
      t.record.csumRx.toNat = received (frameOf f s n) ∧ t.record.csumCalc = t.record.csumRx ∧
      t.record.frmSel = selOf (typeRow t.record.frmType) ∧ t.record.flush = decide (t.record.frmType = 0x60) ∧
      t.record.batLow = ((frameOf f s n).getD 0 0).getLsbD 6

/-- R149, R133: a complete frame whose checksum differs gives CSUM_ERR with its record, one more in the counter, and the
frame reset. -/
def Obligations.MismatchingFrameIsCounted : Prop :=
  ∀ (f : Fragment) (s : State) (n : BitVec 5), FramingInv s → Completes f s n →
    ¬ (surplusOf f s n = true ∧ s.params.overrunPolicy = .discard) →
    received (frameOf f s n) ≠ summed (frameOf f s n) →
    ∃ t, exec (.fragInsync f) s = .next t ∧ FramingCleared t ∧ t.csumErrCnt = s.csumErrCnt + 1 ∧ SameRest s t ∧
      t.evValid = true ∧ t.record.evCode = 2 ∧ t.record.surplus = surplusOf f s n ∧
      t.record.frmType = (frameOf f s n).getD 1 0 ∧ CarriesBytes t.record (frameOf f s n) ∧
      t.record.csumRx.toNat = received (frameOf f s n) ∧ t.record.csumCalc.toNat = summed (frameOf f s n) ∧
      t.record.frmSel = 0 ∧ t.record.flush = false ∧ t.record.batLow = false

/-- R152, R110: under DISCARD a frame completed with surplus bytes is not validated. -/
def Obligations.SurplusUnderDiscardOverruns : Prop :=
  ∀ (f : Fragment) (s : State) (n : BitVec 5), FramingInv s → Completes f s n → surplusOf f s n = true →
    s.params.overrunPolicy = .discard →
    ∃ t, exec (.fragInsync f) s = .next t ∧ FramingCleared t ∧ t.csumErrCnt = s.csumErrCnt ∧ SameRest s t ∧
      t.evValid = true ∧ t.record.evCode = 5 ∧ t.record.surplus = true ∧
      t.record.frmType = (frameOf f s n).getD 1 0 ∧ CarriesBytes t.record (frameOf f s n) ∧
      t.record.csumRx = 0 ∧ t.record.csumCalc = 0 ∧ t.record.frmSel = 0 ∧ t.record.flush = false ∧
      t.record.batLow = false

/-! ### The sensor-type rows -/

/-- R141 to R146: each known type byte has its row; the row writes FRM_SEL, EV_FLUSH and EV_BAT_LOW of the event record and
nothing else; then its own decoder's outputs are those of FRM_DATA and every other group reads 0. -/
def Obligations.TypeRowsSelectTheirDecoder : Prop :=
  ∀ s : State,
    let d := s.record.frmData
    let written (sel : BitVec 6) (flush : Bool) : State :=
      { s with record := { s.record with frmSel := sel, flush := flush, batLow := d[0].getLsbD 6 } }
    (typeRow 0x41 = .rain ∧ exec .typeRain s = .next (written 0b000001 false) ∧
      decoded (written 0b000001 false).record = ⟨decRain d, .zero, .zero, .zero, .zero, .zero⟩) ∧
    (typeRow 0x42 = .tempHum ∧ exec .typeTempHum s = .next (written 0b000010 false) ∧
      decoded (written 0b000010 false).record = ⟨.zero, decTempHum d, .zero, .zero, .zero, .zero⟩) ∧
    (typeRow 0x46 = .pressure ∧ exec .typePressure s = .next (written 0b000100 false) ∧
      decoded (written 0b000100 false).record = ⟨.zero, .zero, decPressure d, .zero, .zero, .zero⟩) ∧
    (typeRow 0x47 = .uv ∧ exec .typeUv s = .next (written 0b001000 false) ∧
      decoded (written 0b001000 false).record = ⟨.zero, .zero, .zero, decUv d, .zero, .zero⟩) ∧
    (typeRow 0x48 = .wind ∧ exec .typeWind s = .next (written 0b010000 false) ∧
      decoded (written 0b010000 false).record = ⟨.zero, .zero, .zero, .zero, decWind d, .zero⟩) ∧
    (typeRow 0x60 = .status ∧ exec .typeStatus s = .next (written 0b100000 true) ∧
      decoded (written 0b100000 true).record = ⟨.zero, .zero, .zero, .zero, .zero, decStatus d⟩)

/-- R140: DISPATCH runs the row of FRM_TYPE; any other type is a fault. -/
def Obligations.DispatchRunsTheRowOfTheType : Prop :=
  ∀ s : State,
    (s.record.frmType = 0x41 → dispatch s = exec .typeRain s) ∧
    (s.record.frmType = 0x42 → dispatch s = exec .typeTempHum s) ∧
    (s.record.frmType = 0x46 → dispatch s = exec .typePressure s) ∧
    (s.record.frmType = 0x47 → dispatch s = exec .typeUv s) ∧
    (s.record.frmType = 0x48 → dispatch s = exec .typeWind s) ∧
    (s.record.frmType = 0x60 → dispatch s = exec .typeStatus s) ∧
    ((∀ u ∈ ([0x41, 0x42, 0x46, 0x47, 0x48, 0x60] : List Byte), s.record.frmType ≠ u) → s.expLen ≠ 0 →
      dispatch s = .fault .unknownTypeAtDispatch)

/-- R109, R150: TYPE_UNKNOWN where the length is looked up (EXP_LEN is still 0; that EXP_LEN tells the two places of this
row apart is the model's reading, log 15). -/
def Obligations.UnknownTypeRowDiscardsAtLookup : Prop :=
  ∀ (t b0 b1 b2 : Byte) (s : State), s.expLen = 0 → s.bufRead 0 = some b0 → s.bufRead 1 = some b1 →
    s.bufRead 2 = some b2 →
    exec (.typeUnknown t) s = .next { s with
      syncCnt := 0, buf := [], bufLen := 0, expLen := 0, evValid := true,
      record := ⟨3, false, t, 3, #v[b0, b1, b2, 0, 0, 0, 0, 0, 0, 0, 0, 0, 0, 0, 0, 0, 0], 0, 0, 0, false, false⟩ }

/-- R147: TYPE_UNKNOWN at dispatch is a fault, and no in-sync fragment reaches it. -/
def Obligations.UnknownTypeRowFaultsAtDispatch : Prop :=
  (∀ (t : Byte) (s : State), s.expLen ≠ 0 → exec (.typeUnknown t) s = .fault .unknownTypeAtDispatch) ∧
  ∀ (f : Fragment) (s : State), FramingInv s → exec (.fragInsync f) s ≠ .fault .unknownTypeAtDispatch

/-- R78: the six types with their lengths and decoder select bits; any other byte has neither. -/
def Obligations.LengthTableOfTheSixTypes : Prop :=
  (∀ row ∈ ([(0x41, 17, 0), (0x42, 12, 1), (0x46, 8, 2), (0x47, 6, 3), (0x48, 11, 4), (0x60, 12, 5)] :
      List (Byte × BitVec 5 × Nat)),
    lenTable row.1 = some row.2.1 ∧ selOf (typeRow row.1) = (1 : BitVec 6) <<< row.2.2) ∧
  ∀ t : Byte, t ∉ ([0x41, 0x42, 0x46, 0x47, 0x48, 0x60] : List Byte) →
    lenTable t = none ∧ selOf (typeRow t) = 0

/-! ### Micro-operations and checksums -/

/-- R107: APPEND stores one byte at BUF_LEN and adds one to BUF_LEN; every other byte of BUF and everything else stays. -/
def Obligations.AppendStoresAtBufLen : Prop :=
  ∀ (v : Byte) (s : State), s.bufLen.toNat < 20 → ∃ t, append v s = .more t ∧
    t.bufRead s.bufLen.toNat = some v ∧ (∀ a, a ≠ s.bufLen.toNat → t.bufRead a = s.bufRead a) ∧
    t.bufLen.toNat = s.bufLen.toNat + 1 ∧
    t.syncCnt = s.syncCnt ∧ t.expLen = s.expLen ∧ t.csumErrCnt = s.csumErrCnt ∧ SameEvent s t ∧ SameRest s t

/-- R22: an entry at index BUF_LEN or above has no value, and an instruction that would read one faults. -/
def Obligations.UnwrittenEntriesHaveNoValue : Prop :=
  ∀ s : State, (∀ i, s.bufLen.toNat ≤ i → s.bufRead i = none) ∧
    (∀ t : Byte, s.expLen = 0 → s.bufLen.toNat ≤ 2 → exec (.typeUnknown t) s = .fault .bufUnwritten)

/-- R131: the modulo is never reached. -/
def Obligations.ChecksumNeverWraps : Prop :=
  ∀ frame : List Byte, frame.length ≤ 17 →
    (calcChecksum frame).toNat = summed frame ∧ summed frame ≤ 3825 ∧
    summed frame % 65536 = summed frame ∧ summed frame % 2 ^ 32 = summed frame

/-- R132: the largest sum of each type, reached when every other counted byte is 0xFF; a larger received checksum, and in
particular a high byte above 0x0E, never matches. -/
def Obligations.LargestSumOfEachType : Prop :=
  ∀ tm ∈ ([(0x41, 17, 0x0E33), (0x42, 12, 0x0939), (0x46, 8, 0x0541), (0x47, 6, 0x0344), (0x48, 11, 0x0840),
      (0x60, 12, 0x0957)] : List (Byte × Nat × Nat)),
    (∀ frame : List Byte, frame.length = tm.2.1 → frame.getD 1 0 = tm.1 →
      (calcChecksum frame).toNat ≤ tm.2.2 ∧
      (tm.2.2 < received frame → rxChecksum frame ≠ calcChecksum frame) ∧
      (0x0E < (frame.getD (frame.length - 1) 0).toNat → rxChecksum frame ≠ calcChecksum frame)) ∧
    (calcChecksum ([0xFF, tm.1] ++ List.replicate (tm.2.1 - 2) 0xFF)).toNat = tm.2.2

/-! ### The clocked side -/

/-- R230: at an edge with `rst = 1` every element takes its reset value whatever was in flight or on offer; in that cycle
`in_ready` and `ev_valid` are 0. -/
def Obligations.ResetEdgeAbortsEverything : Prop :=
  ∀ s : State, s.portIn.rst = true → s.inReady = false ∧ s.evValidOut = false ∧
    ∃ t, step s = .next t ∧ FramingCleared t ∧ t.csumErrCnt = 0 ∧ t.busy = false ∧ t.evValid = false ∧
      t.params = s.params ∧ t.inputs = s.inputs.tail

/-- R232: the ports in the cycle after the last edge with `rst = 1`, and the first acceptance. That the fragment is accepted
as driven even if another was on offer before the reset is the model's choice (log 24). -/
def Obligations.PortsAfterReset : Prop :=
  ∀ s t : State, s.portIn.rst = true → step s = .next t → t.portIn.rst = false →
    t.ports.inReady = true ∧ t.ports.evValid = false ∧ t.ports.stSync = 0 ∧ t.ports.stLen = 0 ∧ t.ports.stExp = 0 ∧
    t.ports.csumErrCnt = 0 ∧
    (t.portIn.valid = true → ∃ u, step t = .next u ∧ u.busy = true ∧ u.pend = t.portIn.frag)

/-- R234, R235: the accepting edge captures the fragment, raises BUSY for a latency between 1 and LAT_MAX, and leaves the
framing group, BUF and the counter alone. The host has kept its offer (R234 (a)), or has raised none since the last
acceptance (R234 (b), log 26). -/
def Obligations.AcceptingEdgeCapturesTheFragment : Prop :=
  ∀ s : State, s.portIn.rst = false → s.portIn.valid = true → s.busy = false → 1 ≤ s.params.latMax →
    (s.offer = .none ∨ s.offer = .released ∨ s.offer = .stable s.portIn.frag) →
    ∃ t, step s = .next t ∧ t.busy = true ∧ t.pend = s.portIn.frag ∧ 1 ≤ t.remaining ∧
      t.remaining ≤ s.params.latMax ∧ t.evValid = false ∧ SameFraming s t ∧ t.csumErrCnt = s.csumErrCnt ∧
      t.params = s.params ∧ t.inputs = s.inputs.tail

/-- R235, R33: an edge inside the busy window accepts nothing and changes nothing the host sees but the time left;
`in_ready` is 0. -/
def Obligations.BusyWindowChangesNothing : Prop :=
  ∀ s : State, s.portIn.rst = false → s.busy = true → 1 < s.remaining → s.inReady = false ∧
    ∃ t, step s = .next t ∧ t.busy = true ∧ t.pend = s.pend ∧ t.remaining = s.remaining - 1 ∧ t.evValid = false ∧
      SameFraming s t ∧ t.csumErrCnt = s.csumErrCnt ∧ t.params = s.params

/-- A step runs the decoded instruction: RESET at an edge with `rst = 1`, and at the completing edge of a transaction the
instruction the operation key selects for the fragment in flight, after the edge has taken its inputs and ended the event
cycle; then BUSY is 0. -/
def Obligations.StepRunsTheDecodedInstruction : Prop :=
  ∀ s : State,
    (s.portIn.rst = true → step s = onNext (exec .reset s.beginEdge) State.retire) ∧
    (s.portIn.rst = false → s.busy = true → s.remaining ≤ 1 →
      step s = onNext (exec (decodeOp s.params s.syncCnt (.frag s.pend)) s.beginEdge) State.retire) ∧
    (SameFraming s s.beginEdge ∧ s.beginEdge.evValid = false ∧
      s.beginEdge.csumErrCnt = s.csumErrCnt ∧ s.beginEdge.params = s.params ∧ s.beginEdge.inputs = s.inputs.tail ∧
      s.beginEdge.pend = s.pend ∧ s.beginEdge.busy = s.busy) ∧
    (SameFraming s s.retire ∧ SameEvent s s.retire ∧ s.retire.busy = false ∧ s.retire.csumErrCnt = s.csumErrCnt ∧
      s.retire.params = s.params ∧ s.retire.inputs = s.inputs)

/-- R31: EV_VALID is 1 after an edge exactly when that edge completed a transaction that emits an event; false starts,
markers, idle fragments and in-sync fragments that leave the block in sync emit none. -/
def Obligations.EventValidForOneCycle : Prop :=
  ∀ s t : State, step s = .next t →
    (t.evValid = true ↔ (s.portIn.rst = false ∧ s.busy = true ∧ s.remaining ≤ 1 ∧
      ∃ u, transact (.frag s.pend) s.beginEdge = .next u ∧ u.evValid = true)) ∧
    (t.evValid = true →
      decodeOp s.params s.syncCnt (.frag s.pend) ≠ .fragIdle s.pend ∧
      decodeOp s.params s.syncCnt (.frag s.pend) ≠ .fragMarker s.pend ∧
      decodeOp s.params s.syncCnt (.frag s.pend) ≠ .fragFalseStart s.pend ∧
      (decodeOp s.params s.syncCnt (.frag s.pend) = .fragInsync s.pend → t.syncCnt = 0))

/-- R213: with no fragment and no `rst`, the block is ready and holds all its state for any number of edges. (PEND and the
event record are no state a rule may read then: 93_implementation_defined.md I10, I11.) -/
def Obligations.IdleBlockHoldsItsState : Prop :=
  ∀ (n : Nat) (s : State), s.busy = false → (∀ p ∈ s.inputs.take n, p.rst = false ∧ p.valid = false) →
    ∃ t, runEdges n s = .next t ∧ t.busy = false ∧ SameFraming s t ∧ t.csumErrCnt = s.csumErrCnt ∧
      t.params = s.params ∧ t.inputs = s.inputs.drop n ∧
      (t.portIn.rst = false → t.inReady = true)

/-- R234 (a), (b): inside the busy window the host may leave `in_valid` at 1 with anything on the lanes (`held`; after the
last acceptance they are free, (b)), may lower it (`low`), and may then raise a fragment and keep it: that fragment is
accepted on the edge after the completing one (R235). A fragment raised before is accepted when it is kept all along. That
lanes changed while `in_valid` stays 1 are free, and not a broken offer, is the model's reading of (b) (log 26). -/
def Obligations.StableOfferIsAccepted : Prop :=
  ∀ (s u : State) (held low : List PortIn) (r : Nat) (f : Fragment) (rest : List PortIn), s.busy = true →
    1 ≤ s.remaining →
    (s.offer = .released ∨ (s.offer = .none ∧ held = []) ∨ (s.offer = .stable f ∧ held = [] ∧ low = [])) →
    (∀ p ∈ held, p.rst = false ∧ p.valid = true) → (∀ p ∈ low, p.rst = false ∧ p.valid = false) →
    held.length + low.length + r = s.remaining →
    s.inputs = held ++ low ++ List.replicate (r + 1) ⟨false, true, f⟩ ++ rest →
    transaction (.frag s.pend) s = .next u →
    ∃ t, runEdges (s.remaining + 1) s = .next t ∧ t.busy = true ∧ t.pend = f

/-- R28, R33, R30: the ports show the state; `in_ready` is the negation of BUSY and 0 while `rst` is asserted; in the event
cycle the record's ports show the record. -/
def Obligations.PortsShowTheState : Prop :=
  ∀ s : State, s.ports.inReady = (!s.busy && !s.portIn.rst) ∧ s.ports.stSync = s.syncCnt ∧ s.ports.stLen = s.bufLen ∧
    s.ports.stExp = s.expLen ∧ s.ports.csumErrCnt = s.csumErrCnt ∧
    (s.portIn.rst = true → s.ports.evValid = false) ∧
    (s.portIn.rst = false → s.ports.evValid = s.evValid) ∧
    (s.portIn.rst = false → s.evValid = true → s.ports.record = s.record ∧ s.ports.fields = decoded s.record)

/-! ### Whole-machine rules, from every state -/

/-- R27, R133: the counter changes at an edge only by RESET, which clears it, and by a CSUM_ERR, which adds one modulo
2^32. -/
def Obligations.CounterChangesOnlyOnMismatch : Prop :=
  ∀ s t : State, step s = .next t →
    (s.portIn.rst = true ∧ t.csumErrCnt = 0) ∨
    (s.portIn.rst = false ∧ t.evValid = true ∧ t.record.evCode = 2 ∧ t.csumErrCnt = s.csumErrCnt + 1) ∨
    (s.portIn.rst = false ∧ ¬ (t.evValid = true ∧ t.record.evCode = 2) ∧ t.csumErrCnt = s.csumErrCnt)

/-- R206: every event but MALFORMED is reported with the frame reset, in the same step; MALFORMED changes nothing of the
framing. -/
def Obligations.EventsRecoverInTheSameStep : Prop :=
  ∀ s t : State, step s = .next t → t.evValid = true →
    (t.record.evCode = 4 ∧ SameFraming s t ∧ t.csumErrCnt = s.csumErrCnt) ∨
    (t.record.evCode ≠ 4 ∧ FramingCleared t)

/-- R154: on FRAME_OK exactly one decoder is selected, on every other event none. -/
def Obligations.ExactlyOneDecoderOnFrameOk : Prop :=
  ∀ s t : State, step s = .next t → t.evValid = true →
    (t.record.evCode = 1 → t.record.frmSel ∈ ([1, 2, 4, 8, 16, 32] : List (BitVec 6))) ∧
    (t.record.evCode ≠ 1 → t.record.frmSel = 0)

/-- R200: the codes 0, 6 and 7 are never produced, OVERRUN only under DISCARD, and sampling the event port never faults. -/
def Obligations.ReservedEventCodesNeverProduced : Prop :=
  ∀ s t : State, step s = .next t → t.evValid = true →
    t.record.evCode ∈ ([1, 2, 3, 4, 5] : List (BitVec 3)) ∧
    (t.record.evCode = 5 → s.params.overrunPolicy = .discard) ∧ ∃ o, t.observeEvent = .ok o

/-- The parameters of an instance are written by no step (00_scope.md R7; that they stand in State is the model's choice,
log 7). -/
def Obligations.ParametersAreNeverWritten : Prop :=
  ∀ s t : State, step s = .next t → t.params = s.params

/-- R72: two fragments with the same error mark, count and declared bytes have the same transaction, whatever stands on the
undeclared lanes. Where GATE_MARKER_BY_COUNT is false and the count is 0, R73 reads lane 0 undeclared, so there lane 0 must
agree; where a byte is declared, it does. -/
def Obligations.UndeclaredLanesAreNeverRead : Prop :=
  ∀ (f g : Fragment) (s : State),
    (s.params.gateMarkerByCount = true ∨ 1 ≤ f.count.toNat ∨ f.lanes[0] = g.lanes[0]) → f.err = g.err →
    f.count = g.count → (∀ i : Fin 19, i.val < f.count.toNat → f.lanes[i] = g.lanes[i]) → transact (.frag f) s = transact (.frag g) s

/-! ### Headlines -/

/-- The invariant holds at reset (R25 (a); the values R36 leaves open are the model's, logs 3 and 4, and are not used). -/
def Obligations.InvariantHoldsAtReset : Prop := Inv State.reset

/-- R21, R22, R24, R25 and the event's rules: every step keeps the invariant. -/
def Obligations.EveryStepKeepsTheInvariant : Prop :=
  ∀ s t : State, Inv s → step s = .next t → Inv t

/-- R201: the stream never fails. From every state that meets the invariant, any number of edges with any inputs answers a
next state. -/
def Obligations.TheStreamNeverFails : Prop :=
  ∀ (n : Nat) (s : State), Inv s → ∃ t, runEdges n s = .next t ∧ Inv t

/-- R14, R235, R37: the clocked machine carries the transaction step. A fragment accepted at an edge completes after exactly
its latency; until then the host sees the state before it; then it sees the state and the event of the transaction
step. -/
def Obligations.ClockedRunIsTheTransaction : Prop :=
  ∀ s u : State, s.busy = false → s.portIn.valid = true → (∀ p ∈ s.inputs.take (s.latency + 1), p.rst = false) →
    transaction (.frag s.captured) s = .next u →
    (∀ j, 1 ≤ j → j ≤ s.latency → ∃ t, runEdges j s = .next t ∧ t.busy = true ∧ t.inReady = false ∧
      t.evValid = false ∧ SameFraming s t ∧ t.csumErrCnt = s.csumErrCnt) ∧
    ∃ t, runEdges (s.latency + 1) s = .next t ∧ t.busy = false ∧ SameFraming u t ∧ t.evValid = u.evValid ∧
      (u.evValid = true → t.record = u.record) ∧ t.csumErrCnt = u.csumErrCnt ∧ t.params = u.params

/-- R115: no frame is emitted without two marker fragments in a row (malformed fragments aside) that took SYNC_CNT from 0
to 2, after which the block stayed in sync. -/
def Obligations.FramesNeedTwoMarkers : Prop :=
  ∀ (fs : List Fragment) (g : Fragment) (s u v : State), s.syncCnt = 0 →
    runOps (fs.map .frag) s = .next u → transaction (.frag g) u = .next v → v.evValid = true →
    (v.record.evCode = 1 ∨ v.record.evCode = 2 ∨ v.record.evCode = 5) →
    GoodFragment g ∧ ∃ (before : List Fragment) (m1 : Fragment) (bad : List Fragment) (m2 : Fragment)
      (rest : List Fragment), fs = before ++ m1 :: bad ++ m2 :: rest ∧
      (∃ w, runOps (before.map .frag) s = .next w ∧ w.syncCnt = 0) ∧
      GoodFragment m1 ∧ IsMarker s.params m1 ∧ (∀ b ∈ bad, ¬ GoodFragment b) ∧
      GoodFragment m2 ∧ IsMarker s.params m2 ∧
      ∀ k, ∃ w, runOps ((before ++ m1 :: bad ++ m2 :: rest.take k).map .frag) s = .next w ∧ w.syncCnt = 2

/-- R116, R53: however a frame's bytes are split over well-formed fragments, and whatever malformed fragments come between,
the event carries exactly the frame's bytes in order: the first LEN_TABLE bytes after the sync sequence; and every field of
the event is fixed by those bytes, but for the surplus (R110): whether the completing fragment goes on after them. -/
def Obligations.FrameIsIndependentOfFragmentation : Prop :=
  ∀ (fs : List Fragment) (g : Fragment) (s : State) (n : BitVec 5), FreshInSync s →
    let bytes := ((fs.filter fun f => !f.malformed).map Fragment.declared).flatten
    GoodFragment g → lenTable ((bytes ++ g.declared).getD 1 0) = some n → bytes.length < n.toNat →
    n.toNat ≤ (bytes ++ g.declared).length →
    let frame := (bytes ++ g.declared).take n.toNat
    ∃ t, runOps ((fs ++ [g]).map .frag) s = .next t ∧ t.evValid = true ∧ FramingCleared t ∧
      CarriesBytes t.record frame ∧ t.record.frmType = frame.getD 1 0 ∧
      t.record.surplus = decide (n.toNat < (bytes ++ g.declared).length) ∧
      if t.record.surplus = true ∧ s.params.overrunPolicy = .discard then
        t.record.evCode = 5 ∧ t.record.csumRx = 0 ∧ t.record.csumCalc = 0 ∧ t.record.frmSel = 0 ∧
          t.record.flush = false ∧ t.record.batLow = false ∧ t.csumErrCnt = s.csumErrCnt
      else if received frame = summed frame then
        t.record.evCode = 1 ∧ t.record.csumRx.toNat = received frame ∧ t.record.csumCalc = t.record.csumRx ∧
          t.record.frmSel = selOf (typeRow t.record.frmType) ∧ t.record.flush = decide (t.record.frmType = 0x60) ∧
          t.record.batLow = (frame.getD 0 0).getLsbD 6 ∧ t.csumErrCnt = s.csumErrCnt
      else
        t.record.evCode = 2 ∧ t.record.csumRx.toNat = received frame ∧ t.record.csumCalc.toNat = summed frame ∧
          t.record.frmSel = 0 ∧ t.record.flush = false ∧ t.record.batLow = false ∧ t.csumErrCnt = s.csumErrCnt + 1

/-! ### Encodings and fields -/

/-- Decoding the encoding of a well-formed instruction gives it back, whatever bytes follow; every operand at every value. -/
def Obligations.DecodeInvertsEncode : Prop :=
  ∀ (p : Config.Params) (i : Instr) (rest : List Byte), i.wellFormed p = true →
    decode (encode i).1 ((encode i).2 ++ rest) = .ok (i, rest)

/-- What the machine decodes is well-formed: the operation of every key, and the row of every type byte. -/
def Obligations.DecodedInstructionsAreWellFormed : Prop :=
  ∀ (p : Config.Params) (c : BitVec 2) (op : Op) (t : Byte),
    (decodeOp p c op).wellFormed p = true ∧ (typeRow t).instr.wellFormed p = true

/-- A few words of the opcode table: the patterns R75 and R78 write. That the words below 32 are read as keys and the others
as type bytes is the model's choice (log 16), and so are the operands of a bare key (log 18). -/
def Obligations.TableWordsDecode : Prop :=
  decodeTableWord 8 0b10000 = some .reset ∧ decodeTableWord 8 0b00110 = some .syncReserved ∧
  decodeTableWord 8 0b01000 = some (.fragMalformed ⟨true, 0, lanesOf [0]⟩) ∧
  decodeTableWord 8 0b00001 = some (.fragMarker ⟨false, 1, lanesOf [0xFF]⟩) ∧
  decodeTableWord 8 0b01000001 = some .typeRain ∧ decodeTableWord 8 0b01100000 = some .typeStatus ∧
  decodeTableWord 8 0b10011001 = some (.typeUnknown 0x99)

/-- R175: a decoder group reads 0 unless its select bit is set. -/
def Obligations.DecoderOutputsAreGated : Prop :=
  ∀ r : EventRecord,
    (decoded r).rain = (if r.frmSel.getLsbD 0 then decRain r.frmData else ⟨0, 0, 0, 0, 0, 0, 0, 0, 0⟩) ∧
    (decoded r).tempHum = (if r.frmSel.getLsbD 1 then decTempHum r.frmData
      else ⟨0, 0, 0, false, 0, false, 0, false, false⟩) ∧
    (decoded r).pressure = (if r.frmSel.getLsbD 2 then decPressure r.frmData else ⟨0, 0, 0, false⟩) ∧
    (decoded r).uv = (if r.frmSel.getLsbD 3 then decUv r.frmData else ⟨0⟩) ∧
    (decoded r).wind = (if r.frmSel.getLsbD 4 then decWind r.frmData else ⟨0, 0, 0, false, 0⟩) ∧
    (decoded r).status = (if r.frmSel.getLsbD 5 then decStatus r.frmData
      else ⟨0, 0, 0, 0, 0, false, false, false⟩)

/-- R163, R168, R170: the raw fields of Rain, Pressure and UV as numbers, by WN's formulas. -/
def Obligations.RainPressureUvFormulas : Prop :=
  ∀ d : Vector Byte 17,
    let b (j : Fin 17) : Nat := d[j].toNat
    ((decRain d).rateRaw.toNat = b 3 % 16 * 256 + b 2 ∧ (decRain d).oneHourRaw.toNat = b 5 * 256 + b 4 ∧
      (decRain d).dayRaw.toNat = b 7 * 256 + b 6 ∧ (decRain d).totalRaw.toNat = b 9 * 256 + b 8 ∧
      (decRain d).sinceMin = d[10] ∧ (decRain d).sinceHour = d[11] ∧ (decRain d).sinceDay = d[12] ∧
      (decRain d).sinceMonth = d[13] ∧ (decRain d).sinceYy = d[14]) ∧
    ((decPressure d).rel.toNat = b 4 + b 5 % 16 * 256 ∧ (decPressure d).abs.toNat = b 2 + b 3 % 16 * 256 ∧
      (decPressure d).fcIdx.toNat = b 3 / 16 ∧ ((decPressure d).fcInTable = true ↔ b 3 / 16 < 7)) ∧
    (decUv d).index = d[3]

/-- R165, R171, R173: the raw fields of Temperature/Humidity, Wind and Status as numbers and conditions on the bytes. -/
def Obligations.TempHumWindStatusFormulas : Prop :=
  ∀ d : Vector Byte 17,
    let b (j : Fin 17) : Nat := d[j].toNat
    ((decTempHum d).sensorId.toNat = b 2 % 16 ∧
      (decTempHum d).location.toNat = (if b 2 % 16 = 0 then 0 else if b 2 % 16 = 1 then 1 else 2) ∧
      (decTempHum d).tempMag.toNat = b 4 % 16 * 256 + b 3 ∧ ((decTempHum d).tempNeg = true ↔ 128 ≤ b 4) ∧
      (decTempHum d).hum = d[5] ∧ ((decTempHum d).dewValid = true ↔ b 2 % 16 = 1) ∧
      (decTempHum d).dewMag.toNat = (if b 2 % 16 = 1 then b 7 % 16 * 256 + b 6 else 0) ∧
      ((decTempHum d).dewNeg = true ↔ b 2 % 16 = 1 ∧ 128 ≤ b 7) ∧
      ((decTempHum d).implausible = true ↔ 1000 < b 4 % 16 * 256 + b 3)) ∧
    ((decWind d).dirSector.toNat = b 2 % 16 ∧ (decWind d).gustRaw.toNat = b 5 % 16 * 256 + b 4 ∧
      (decWind d).avgRaw.toNat = b 6 * 16 + b 5 / 16 ∧ ((decWind d).chillValid = true ↔ b 8 ≠ 0x20) ∧
      (decWind d).chillRaw.toNat = (if b 8 = 0x20 then 0 else b 8 % 16 * 256 + b 7)) ∧
    ((decStatus d).clkMin = d[4] ∧ (decStatus d).clkHour = d[5] ∧ (decStatus d).clkDay = d[6] ∧
      (decStatus d).clkMonth = d[7] ∧ (decStatus d).clkYy = d[8] ∧ ((decStatus d).powered = true ↔ b 0 < 128) ∧
      ((decStatus d).radioSync = true ↔ b 0 / 32 % 2 = 1) ∧ ((decStatus d).radioLow = true ↔ b 0 / 16 % 2 = 1))

/-- R176 for Rain: raw values placed in a frame with any ignored bits come out of the decoder as they were, and no other
group is selected. -/
def Obligations.RainFieldsRoundTrip : Prop :=
  ∀ (s : State) (b0 : Byte) (x3 : BitVec 4) (o : RainOut), FreshInSync s →
    ∃ t, exec (.fragInsync (fragOf (rainFrame b0 x3 o))) s = .next t ∧ t.evValid = true ∧ t.record.evCode = 1 ∧
      decoded t.record = ⟨o, .zero, .zero, .zero, .zero, .zero⟩ ∧ t.record.batLow = b0.getLsbD 6 ∧
      t.record.flush = false

/-- R176 for Temperature/Humidity: the dew point comes out for sensor id 1 only (R165). -/
def Obligations.TempHumFieldsRoundTrip : Prop :=
  ∀ (s : State) (b0 : Byte) (x2 : BitVec 4) (x4 x7 : BitVec 3) (x8 x9 : Byte) (o : TempHumRaw), FreshInSync s →
    ∃ t, exec (.fragInsync (fragOf (tempHumFrame b0 x2 x4 x7 x8 x9 o))) s = .next t ∧ t.evValid = true ∧
      t.record.evCode = 1 ∧ t.record.batLow = b0.getLsbD 6 ∧ t.record.flush = false ∧
      decoded t.record = ⟨.zero,
        ⟨o.sensorId, if o.sensorId = 0 then 0 else if o.sensorId = 1 then 1 else 2, o.tempMag, o.tempNeg, o.hum,
          decide (o.sensorId = 1), if o.sensorId = 1 then o.dewMag else 0,
          decide (o.sensorId = 1) && o.dewNeg, decide (1000 < o.tempMag.toNat)⟩,
        .zero, .zero, .zero, .zero⟩

/-- R176 for Pressure and UV. -/
def Obligations.PressureAndUvFieldsRoundTrip : Prop :=
  ∀ s : State, FreshInSync s →
    (∀ (b0 : Byte) (x5 : BitVec 4) (rel abs : BitVec 12) (fc : BitVec 4),
      ∃ t, exec (.fragInsync (fragOf (pressureFrame b0 x5 rel abs fc))) s = .next t ∧ t.evValid = true ∧
        t.record.evCode = 1 ∧ t.record.batLow = b0.getLsbD 6 ∧ t.record.flush = false ∧
        decoded t.record = ⟨.zero, .zero, ⟨rel, abs, fc, decide (fc.toNat < 7)⟩, .zero, .zero, .zero⟩) ∧
    (∀ b0 x2 index : Byte,
      ∃ t, exec (.fragInsync (fragOf (uvFrame b0 x2 index))) s = .next t ∧ t.evValid = true ∧
        t.record.evCode = 1 ∧ t.record.batLow = b0.getLsbD 6 ∧ t.record.flush = false ∧
        decoded t.record = ⟨.zero, .zero, .zero, ⟨index⟩, .zero, .zero⟩)

/-- R176 for Wind: a chill value comes out when b8 is not the sentinel 0x20, and none when it is, whatever b7 is (R171). -/
def Obligations.WindFieldsRoundTrip : Prop :=
  ∀ (s : State) (b0 : Byte) (x2 : BitVec 4) (x3 : Byte) (dir : BitVec 4) (gust avg : BitVec 12), FreshInSync s →
    (∀ (x8 : BitVec 4) (chill : BitVec 12), highNibbleByte x8 chill ≠ 0x20 →
      ∃ t, exec (.fragInsync (fragOf (windFrame b0 x2 x3 dir gust avg (lowByte chill) (highNibbleByte x8 chill)))) s =
          .next t ∧ t.evValid = true ∧ t.record.evCode = 1 ∧ t.record.batLow = b0.getLsbD 6 ∧
        t.record.flush = false ∧
        decoded t.record = ⟨.zero, .zero, .zero, .zero, ⟨dir, gust, avg, true, chill⟩, .zero⟩) ∧
    (∀ b7 : Byte,
      ∃ t, exec (.fragInsync (fragOf (windFrame b0 x2 x3 dir gust avg b7 0x20))) s = .next t ∧ t.evValid = true ∧
        t.record.evCode = 1 ∧ t.record.batLow = b0.getLsbD 6 ∧ t.record.flush = false ∧
        decoded t.record = ⟨.zero, .zero, .zero, .zero, ⟨dir, gust, avg, false, 0⟩, .zero⟩)

/-- R176 for Status, with the flush strobe (R146). -/
def Obligations.StatusFieldsRoundTrip : Prop :=
  ∀ (s : State) (batLow : Bool) (x0 : BitVec 4) (x2 x3 x9 : Byte) (o : StatusOut), FreshInSync s →
    ∃ t, exec (.fragInsync (fragOf (statusFrame batLow x0 x2 x3 x9 o))) s = .next t ∧ t.evValid = true ∧
      t.record.evCode = 1 ∧ decoded t.record = ⟨.zero, .zero, .zero, .zero, .zero, o⟩ ∧ t.record.batLow = batLow ∧
      t.record.flush = true

/-- R153: on FRAME_OK the battery feed is the whole byte 0, its battery bit, FRM_TYPE and, for type 0x42, the sensor id; on
every other event there is none. -/
def Obligations.BatteryFeedOnFrameOkOnly : Prop :=
  ∀ s t : State, Inv s → step s = .next t → t.evValid = true →
    batteryFeed t.record =
      if t.record.evCode = 1 then
        some ⟨t.record.frmData[0], t.record.frmData[0].getLsbD 6, t.record.frmType,
          if t.record.frmType = 0x42 then some (t.record.frmData[2].extractLsb' 0 4) else none⟩
      else none

/-! ### The downstream contract (no part of the block, log 21) -/

/-- R161, R176: `round1` is within half a tenth of the exact value, under either tie rule. -/
def Obligations.RoundOneIsNearest : Prop :=
  ∀ (ties : Downstream.RoundTies) (n : Int) (d : Nat), 0 < d →
    2 * (Downstream.round1 ties n d * d - 10 * n).natAbs ≤ d

/-- R161: the rain conversion has a tie exactly when raw ≡ 25 (mod 50), broken upward by the default. Neither the ×0.1
conversion of a signed raw value nor the wind chill ever has one (R161, R172), so both tie rules agree there, and ×0.1 is
exact. -/
def Obligations.TiesOccurForRainOnly : Prop :=
  (∀ raw : Nat, 2 * ((10 * (raw * 127)) % 500) = 500 ↔ raw % 50 = 25) ∧
  (∀ raw : Nat, raw % 50 = 25 →
    Downstream.round1 .awayFromZero ((raw : Int) * 127) 500 = (10 * ((raw : Int) * 127)) / 500 + 1) ∧
  (∀ raw : Int, 2 * ((10 * raw) % 10) ≠ 10) ∧ (∀ raw : Int, 2 * ((10 * (raw - 320)) % 18) ≠ 18) ∧
  (∀ (ties : Downstream.RoundTies) (raw : Int), Downstream.round1 ties raw 10 = raw) ∧
  ∀ raw : Int, Downstream.round1 .awayFromZero (raw - 320) 18 = Downstream.round1 .halfEven (raw - 320) 18
end

