-- ==== Sys2Proof/Laws/State.lean ====
section
/-! SUPPORT. For each named update of State, what each field reads afterwards. -/

namespace Sys2Proof.Machine

section
variable (s : State)

/-! ### appended -/

@[simp] theorem State.appended_syncCnt (v : Byte) : (s.appended v).syncCnt = s.syncCnt := rfl
@[simp] theorem State.appended_buf (v : Byte) : (s.appended v).buf = s.buf.write s.bufLen.toNat v := rfl
@[simp] theorem State.appended_bufLen (v : Byte) : (s.appended v).bufLen = s.bufLen + 1 := rfl
@[simp] theorem State.appended_expLen (v : Byte) : (s.appended v).expLen = s.expLen := rfl
@[simp] theorem State.appended_csumErrCnt (v : Byte) : (s.appended v).csumErrCnt = s.csumErrCnt := rfl
@[simp] theorem State.appended_busy (v : Byte) : (s.appended v).busy = s.busy := rfl
@[simp] theorem State.appended_pend (v : Byte) : (s.appended v).pend = s.pend := rfl
@[simp] theorem State.appended_evValid (v : Byte) : (s.appended v).evValid = s.evValid := rfl
@[simp] theorem State.appended_record (v : Byte) : (s.appended v).record = s.record := rfl
@[simp] theorem State.appended_params (v : Byte) : (s.appended v).params = s.params := rfl
@[simp] theorem State.appended_inputs (v : Byte) : (s.appended v).inputs = s.inputs := rfl
@[simp] theorem State.appended_offer (v : Byte) : (s.appended v).offer = s.offer := rfl
@[simp] theorem State.appended_remaining (v : Byte) : (s.appended v).remaining = s.remaining := rfl
@[simp] theorem State.appended_latChoice (v : Byte) : (s.appended v).latChoice = s.latChoice := rfl
@[simp] theorem State.appended_freeIdx (v : Byte) : (s.appended v).freeIdx = s.freeIdx := rfl

/-! ### setSyncCnt -/

@[simp] theorem State.setSyncCnt_syncCnt (v : BitVec 2) : (s.setSyncCnt v).syncCnt = v := rfl
@[simp] theorem State.setSyncCnt_buf (v : BitVec 2) : (s.setSyncCnt v).buf = s.buf := rfl
@[simp] theorem State.setSyncCnt_bufLen (v : BitVec 2) : (s.setSyncCnt v).bufLen = s.bufLen := rfl
@[simp] theorem State.setSyncCnt_expLen (v : BitVec 2) : (s.setSyncCnt v).expLen = s.expLen := rfl
@[simp] theorem State.setSyncCnt_csumErrCnt (v : BitVec 2) : (s.setSyncCnt v).csumErrCnt = s.csumErrCnt := rfl
@[simp] theorem State.setSyncCnt_busy (v : BitVec 2) : (s.setSyncCnt v).busy = s.busy := rfl
@[simp] theorem State.setSyncCnt_pend (v : BitVec 2) : (s.setSyncCnt v).pend = s.pend := rfl
@[simp] theorem State.setSyncCnt_evValid (v : BitVec 2) : (s.setSyncCnt v).evValid = s.evValid := rfl
@[simp] theorem State.setSyncCnt_record (v : BitVec 2) : (s.setSyncCnt v).record = s.record := rfl
@[simp] theorem State.setSyncCnt_params (v : BitVec 2) : (s.setSyncCnt v).params = s.params := rfl
@[simp] theorem State.setSyncCnt_inputs (v : BitVec 2) : (s.setSyncCnt v).inputs = s.inputs := rfl
@[simp] theorem State.setSyncCnt_offer (v : BitVec 2) : (s.setSyncCnt v).offer = s.offer := rfl
@[simp] theorem State.setSyncCnt_remaining (v : BitVec 2) : (s.setSyncCnt v).remaining = s.remaining := rfl
@[simp] theorem State.setSyncCnt_latChoice (v : BitVec 2) : (s.setSyncCnt v).latChoice = s.latChoice := rfl
@[simp] theorem State.setSyncCnt_freeIdx (v : BitVec 2) : (s.setSyncCnt v).freeIdx = s.freeIdx := rfl

/-! ### setExpLen -/

@[simp] theorem State.setExpLen_syncCnt (v : BitVec 5) : (s.setExpLen v).syncCnt = s.syncCnt := rfl
@[simp] theorem State.setExpLen_buf (v : BitVec 5) : (s.setExpLen v).buf = s.buf := rfl
@[simp] theorem State.setExpLen_bufLen (v : BitVec 5) : (s.setExpLen v).bufLen = s.bufLen := rfl
@[simp] theorem State.setExpLen_expLen (v : BitVec 5) : (s.setExpLen v).expLen = v := rfl
@[simp] theorem State.setExpLen_csumErrCnt (v : BitVec 5) : (s.setExpLen v).csumErrCnt = s.csumErrCnt := rfl
@[simp] theorem State.setExpLen_busy (v : BitVec 5) : (s.setExpLen v).busy = s.busy := rfl
@[simp] theorem State.setExpLen_pend (v : BitVec 5) : (s.setExpLen v).pend = s.pend := rfl
@[simp] theorem State.setExpLen_evValid (v : BitVec 5) : (s.setExpLen v).evValid = s.evValid := rfl
@[simp] theorem State.setExpLen_record (v : BitVec 5) : (s.setExpLen v).record = s.record := rfl
@[simp] theorem State.setExpLen_params (v : BitVec 5) : (s.setExpLen v).params = s.params := rfl
@[simp] theorem State.setExpLen_inputs (v : BitVec 5) : (s.setExpLen v).inputs = s.inputs := rfl
@[simp] theorem State.setExpLen_offer (v : BitVec 5) : (s.setExpLen v).offer = s.offer := rfl
@[simp] theorem State.setExpLen_remaining (v : BitVec 5) : (s.setExpLen v).remaining = s.remaining := rfl
@[simp] theorem State.setExpLen_latChoice (v : BitVec 5) : (s.setExpLen v).latChoice = s.latChoice := rfl
@[simp] theorem State.setExpLen_freeIdx (v : BitVec 5) : (s.setExpLen v).freeIdx = s.freeIdx := rfl

/-! ### frameReset -/

@[simp] theorem State.frameReset_syncCnt : s.frameReset.syncCnt = 0 := rfl
@[simp] theorem State.frameReset_buf : s.frameReset.buf = [] := rfl
@[simp] theorem State.frameReset_bufLen : s.frameReset.bufLen = 0 := rfl
@[simp] theorem State.frameReset_expLen : s.frameReset.expLen = 0 := rfl
@[simp] theorem State.frameReset_csumErrCnt : s.frameReset.csumErrCnt = s.csumErrCnt := rfl
@[simp] theorem State.frameReset_busy : s.frameReset.busy = s.busy := rfl
@[simp] theorem State.frameReset_pend : s.frameReset.pend = s.pend := rfl
@[simp] theorem State.frameReset_evValid : s.frameReset.evValid = s.evValid := rfl
@[simp] theorem State.frameReset_record : s.frameReset.record = s.record := rfl
@[simp] theorem State.frameReset_params : s.frameReset.params = s.params := rfl
@[simp] theorem State.frameReset_inputs : s.frameReset.inputs = s.inputs := rfl
@[simp] theorem State.frameReset_offer : s.frameReset.offer = s.offer := rfl
@[simp] theorem State.frameReset_remaining : s.frameReset.remaining = s.remaining := rfl
@[simp] theorem State.frameReset_latChoice : s.frameReset.latChoice = s.latChoice := rfl
@[simp] theorem State.frameReset_freeIdx : s.frameReset.freeIdx = s.freeIdx := rfl

/-! ### bumpCsumErr -/

@[simp] theorem State.bumpCsumErr_syncCnt : s.bumpCsumErr.syncCnt = s.syncCnt := rfl
@[simp] theorem State.bumpCsumErr_buf : s.bumpCsumErr.buf = s.buf := rfl
@[simp] theorem State.bumpCsumErr_bufLen : s.bumpCsumErr.bufLen = s.bufLen := rfl
@[simp] theorem State.bumpCsumErr_expLen : s.bumpCsumErr.expLen = s.expLen := rfl
@[simp] theorem State.bumpCsumErr_csumErrCnt : s.bumpCsumErr.csumErrCnt = s.csumErrCnt + 1 := rfl
@[simp] theorem State.bumpCsumErr_busy : s.bumpCsumErr.busy = s.busy := rfl
@[simp] theorem State.bumpCsumErr_pend : s.bumpCsumErr.pend = s.pend := rfl
@[simp] theorem State.bumpCsumErr_evValid : s.bumpCsumErr.evValid = s.evValid := rfl
@[simp] theorem State.bumpCsumErr_record : s.bumpCsumErr.record = s.record := rfl
@[simp] theorem State.bumpCsumErr_params : s.bumpCsumErr.params = s.params := rfl
@[simp] theorem State.bumpCsumErr_inputs : s.bumpCsumErr.inputs = s.inputs := rfl
@[simp] theorem State.bumpCsumErr_offer : s.bumpCsumErr.offer = s.offer := rfl
@[simp] theorem State.bumpCsumErr_remaining : s.bumpCsumErr.remaining = s.remaining := rfl
@[simp] theorem State.bumpCsumErr_latChoice : s.bumpCsumErr.latChoice = s.latChoice := rfl
@[simp] theorem State.bumpCsumErr_freeIdx : s.bumpCsumErr.freeIdx = s.freeIdx := rfl

/-! ### emit -/

@[simp] theorem State.emit_syncCnt (r : EventRecord) : (s.emit r).syncCnt = s.syncCnt := rfl
@[simp] theorem State.emit_buf (r : EventRecord) : (s.emit r).buf = s.buf := rfl
@[simp] theorem State.emit_bufLen (r : EventRecord) : (s.emit r).bufLen = s.bufLen := rfl
@[simp] theorem State.emit_expLen (r : EventRecord) : (s.emit r).expLen = s.expLen := rfl
@[simp] theorem State.emit_csumErrCnt (r : EventRecord) : (s.emit r).csumErrCnt = s.csumErrCnt := rfl
@[simp] theorem State.emit_busy (r : EventRecord) : (s.emit r).busy = s.busy := rfl
@[simp] theorem State.emit_pend (r : EventRecord) : (s.emit r).pend = s.pend := rfl
@[simp] theorem State.emit_evValid (r : EventRecord) : (s.emit r).evValid = true := rfl
@[simp] theorem State.emit_record (r : EventRecord) : (s.emit r).record = r := rfl
@[simp] theorem State.emit_params (r : EventRecord) : (s.emit r).params = s.params := rfl
@[simp] theorem State.emit_inputs (r : EventRecord) : (s.emit r).inputs = s.inputs := rfl
@[simp] theorem State.emit_offer (r : EventRecord) : (s.emit r).offer = s.offer := rfl
@[simp] theorem State.emit_remaining (r : EventRecord) : (s.emit r).remaining = s.remaining := rfl
@[simp] theorem State.emit_latChoice (r : EventRecord) : (s.emit r).latChoice = s.latChoice := rfl
@[simp] theorem State.emit_freeIdx (r : EventRecord) : (s.emit r).freeIdx = s.freeIdx := rfl

/-! ### select -/

@[simp] theorem State.select_syncCnt (v : BitVec 6) (b : Bool) : (s.select v b).syncCnt = s.syncCnt := rfl
@[simp] theorem State.select_buf (v : BitVec 6) (b : Bool) : (s.select v b).buf = s.buf := rfl
@[simp] theorem State.select_bufLen (v : BitVec 6) (b : Bool) : (s.select v b).bufLen = s.bufLen := rfl
@[simp] theorem State.select_expLen (v : BitVec 6) (b : Bool) : (s.select v b).expLen = s.expLen := rfl
@[simp] theorem State.select_csumErrCnt (v : BitVec 6) (b : Bool) : (s.select v b).csumErrCnt = s.csumErrCnt := rfl
@[simp] theorem State.select_busy (v : BitVec 6) (b : Bool) : (s.select v b).busy = s.busy := rfl
@[simp] theorem State.select_pend (v : BitVec 6) (b : Bool) : (s.select v b).pend = s.pend := rfl
@[simp] theorem State.select_evValid (v : BitVec 6) (b : Bool) : (s.select v b).evValid = s.evValid := rfl
@[simp] theorem State.select_record (v : BitVec 6) (b : Bool) : (s.select v b).record = { s.record with frmSel := v, flush := b, batLow := batteryLow s.record.frmData[0] } := rfl
@[simp] theorem State.select_params (v : BitVec 6) (b : Bool) : (s.select v b).params = s.params := rfl
@[simp] theorem State.select_inputs (v : BitVec 6) (b : Bool) : (s.select v b).inputs = s.inputs := rfl
@[simp] theorem State.select_offer (v : BitVec 6) (b : Bool) : (s.select v b).offer = s.offer := rfl
@[simp] theorem State.select_remaining (v : BitVec 6) (b : Bool) : (s.select v b).remaining = s.remaining := rfl
@[simp] theorem State.select_latChoice (v : BitVec 6) (b : Bool) : (s.select v b).latChoice = s.latChoice := rfl
@[simp] theorem State.select_freeIdx (v : BitVec 6) (b : Bool) : (s.select v b).freeIdx = s.freeIdx := rfl

/-! ### powerReset -/

@[simp] theorem State.powerReset_syncCnt : s.powerReset.syncCnt = 0 := rfl
@[simp] theorem State.powerReset_buf : s.powerReset.buf = [] := rfl
@[simp] theorem State.powerReset_bufLen : s.powerReset.bufLen = 0 := rfl
@[simp] theorem State.powerReset_expLen : s.powerReset.expLen = 0 := rfl
@[simp] theorem State.powerReset_csumErrCnt : s.powerReset.csumErrCnt = 0 := rfl
@[simp] theorem State.powerReset_busy : s.powerReset.busy = false := rfl
@[simp] theorem State.powerReset_pend : s.powerReset.pend = Config.freeFragment s.freeIdx := rfl
@[simp] theorem State.powerReset_evValid : s.powerReset.evValid = false := rfl
@[simp] theorem State.powerReset_record : s.powerReset.record = Config.freeRecord s.freeIdx := rfl
@[simp] theorem State.powerReset_params : s.powerReset.params = s.params := rfl
@[simp] theorem State.powerReset_inputs : s.powerReset.inputs = s.inputs := rfl
@[simp] theorem State.powerReset_offer : s.powerReset.offer = .none := rfl
@[simp] theorem State.powerReset_remaining : s.powerReset.remaining = 0 := rfl
@[simp] theorem State.powerReset_latChoice : s.powerReset.latChoice = s.latChoice := rfl
@[simp] theorem State.powerReset_freeIdx : s.powerReset.freeIdx = s.freeIdx := rfl

/-! ### beginEdge -/

@[simp] theorem State.beginEdge_syncCnt : s.beginEdge.syncCnt = s.syncCnt := rfl
@[simp] theorem State.beginEdge_buf : s.beginEdge.buf = s.buf := rfl
@[simp] theorem State.beginEdge_bufLen : s.beginEdge.bufLen = s.bufLen := rfl
@[simp] theorem State.beginEdge_expLen : s.beginEdge.expLen = s.expLen := rfl
@[simp] theorem State.beginEdge_csumErrCnt : s.beginEdge.csumErrCnt = s.csumErrCnt := rfl
@[simp] theorem State.beginEdge_busy : s.beginEdge.busy = s.busy := rfl
@[simp] theorem State.beginEdge_pend : s.beginEdge.pend = s.pend := rfl
@[simp] theorem State.beginEdge_evValid : s.beginEdge.evValid = false := rfl
@[simp] theorem State.beginEdge_record : s.beginEdge.record = s.record := rfl
@[simp] theorem State.beginEdge_params : s.beginEdge.params = s.params := rfl
@[simp] theorem State.beginEdge_inputs : s.beginEdge.inputs = s.inputs.tail := rfl
@[simp] theorem State.beginEdge_offer : s.beginEdge.offer = Offer.next s.offer s.portIn := rfl
@[simp] theorem State.beginEdge_remaining : s.beginEdge.remaining = s.remaining := rfl
@[simp] theorem State.beginEdge_latChoice : s.beginEdge.latChoice = s.latChoice := rfl
@[simp] theorem State.beginEdge_freeIdx : s.beginEdge.freeIdx = s.freeIdx + 1 := rfl

/-! ### acceptEdge -/

@[simp] theorem State.acceptEdge_syncCnt : s.acceptEdge.syncCnt = s.syncCnt := rfl
@[simp] theorem State.acceptEdge_buf : s.acceptEdge.buf = s.buf := rfl
@[simp] theorem State.acceptEdge_bufLen : s.acceptEdge.bufLen = s.bufLen := rfl
@[simp] theorem State.acceptEdge_expLen : s.acceptEdge.expLen = s.expLen := rfl
@[simp] theorem State.acceptEdge_csumErrCnt : s.acceptEdge.csumErrCnt = s.csumErrCnt := rfl
@[simp] theorem State.acceptEdge_busy : s.acceptEdge.busy = true := rfl
@[simp] theorem State.acceptEdge_pend : s.acceptEdge.pend = s.captured := rfl
@[simp] theorem State.acceptEdge_evValid : s.acceptEdge.evValid = false := rfl
@[simp] theorem State.acceptEdge_record : s.acceptEdge.record = s.record := rfl
@[simp] theorem State.acceptEdge_params : s.acceptEdge.params = s.params := rfl
@[simp] theorem State.acceptEdge_inputs : s.acceptEdge.inputs = s.inputs.tail := rfl
@[simp] theorem State.acceptEdge_offer : s.acceptEdge.offer = .released := rfl
@[simp] theorem State.acceptEdge_remaining : s.acceptEdge.remaining = s.latency := rfl
@[simp] theorem State.acceptEdge_latChoice : s.acceptEdge.latChoice = s.latChoice.tail := rfl
@[simp] theorem State.acceptEdge_freeIdx : s.acceptEdge.freeIdx = s.freeIdx + 1 := rfl

/-! ### waitEdge -/

@[simp] theorem State.waitEdge_syncCnt : s.waitEdge.syncCnt = s.syncCnt := rfl
@[simp] theorem State.waitEdge_buf : s.waitEdge.buf = s.buf := rfl
@[simp] theorem State.waitEdge_bufLen : s.waitEdge.bufLen = s.bufLen := rfl
@[simp] theorem State.waitEdge_expLen : s.waitEdge.expLen = s.expLen := rfl
@[simp] theorem State.waitEdge_csumErrCnt : s.waitEdge.csumErrCnt = s.csumErrCnt := rfl
@[simp] theorem State.waitEdge_busy : s.waitEdge.busy = s.busy := rfl
@[simp] theorem State.waitEdge_pend : s.waitEdge.pend = s.pend := rfl
@[simp] theorem State.waitEdge_evValid : s.waitEdge.evValid = false := rfl
@[simp] theorem State.waitEdge_record : s.waitEdge.record = s.record := rfl
@[simp] theorem State.waitEdge_params : s.waitEdge.params = s.params := rfl
@[simp] theorem State.waitEdge_inputs : s.waitEdge.inputs = s.inputs.tail := rfl
@[simp] theorem State.waitEdge_offer : s.waitEdge.offer = Offer.next s.offer s.portIn := rfl
@[simp] theorem State.waitEdge_remaining : s.waitEdge.remaining = s.remaining - 1 := rfl
@[simp] theorem State.waitEdge_latChoice : s.waitEdge.latChoice = s.latChoice := rfl
@[simp] theorem State.waitEdge_freeIdx : s.waitEdge.freeIdx = s.freeIdx + 1 := rfl

/-! ### retire -/

@[simp] theorem State.retire_syncCnt : s.retire.syncCnt = s.syncCnt := rfl
@[simp] theorem State.retire_buf : s.retire.buf = s.buf := rfl
@[simp] theorem State.retire_bufLen : s.retire.bufLen = s.bufLen := rfl
@[simp] theorem State.retire_expLen : s.retire.expLen = s.expLen := rfl
@[simp] theorem State.retire_csumErrCnt : s.retire.csumErrCnt = s.csumErrCnt := rfl
@[simp] theorem State.retire_busy : s.retire.busy = false := rfl
@[simp] theorem State.retire_pend : s.retire.pend = s.pend := rfl
@[simp] theorem State.retire_evValid : s.retire.evValid = s.evValid := rfl
@[simp] theorem State.retire_record : s.retire.record = s.record := rfl
@[simp] theorem State.retire_params : s.retire.params = s.params := rfl
@[simp] theorem State.retire_inputs : s.retire.inputs = s.inputs := rfl
@[simp] theorem State.retire_offer : s.retire.offer = s.offer := rfl
@[simp] theorem State.retire_remaining : s.retire.remaining = 0 := rfl
@[simp] theorem State.retire_latChoice : s.retire.latChoice = s.latChoice := rfl
@[simp] theorem State.retire_freeIdx : s.retire.freeIdx = s.freeIdx := rfl

/-! ### clearEvent -/

@[simp] theorem State.clearEvent_syncCnt : s.clearEvent.syncCnt = s.syncCnt := rfl
@[simp] theorem State.clearEvent_buf : s.clearEvent.buf = s.buf := rfl
@[simp] theorem State.clearEvent_bufLen : s.clearEvent.bufLen = s.bufLen := rfl
@[simp] theorem State.clearEvent_expLen : s.clearEvent.expLen = s.expLen := rfl
@[simp] theorem State.clearEvent_csumErrCnt : s.clearEvent.csumErrCnt = s.csumErrCnt := rfl
@[simp] theorem State.clearEvent_busy : s.clearEvent.busy = s.busy := rfl
@[simp] theorem State.clearEvent_pend : s.clearEvent.pend = s.pend := rfl
@[simp] theorem State.clearEvent_evValid : s.clearEvent.evValid = false := rfl
@[simp] theorem State.clearEvent_record : s.clearEvent.record = s.record := rfl
@[simp] theorem State.clearEvent_params : s.clearEvent.params = s.params := rfl
@[simp] theorem State.clearEvent_inputs : s.clearEvent.inputs = s.inputs := rfl
@[simp] theorem State.clearEvent_offer : s.clearEvent.offer = s.offer := rfl
@[simp] theorem State.clearEvent_remaining : s.clearEvent.remaining = s.remaining := rfl
@[simp] theorem State.clearEvent_latChoice : s.clearEvent.latChoice = s.latChoice := rfl
@[simp] theorem State.clearEvent_freeIdx : s.clearEvent.freeIdx = s.freeIdx := rfl

/-! ### BUF through updates that leave it alone -/

@[simp] theorem State.setSyncCnt_bufRead (v : BitVec 2) (i : Nat) : (s.setSyncCnt v).bufRead i = s.bufRead i := rfl
@[simp] theorem State.setExpLen_bufRead (v : BitVec 5) (i : Nat) : (s.setExpLen v).bufRead i = s.bufRead i := rfl
@[simp] theorem State.bumpCsumErr_bufRead (i : Nat) : s.bumpCsumErr.bufRead i = s.bufRead i := rfl
@[simp] theorem State.emit_bufRead (r : EventRecord) (i : Nat) : (s.emit r).bufRead i = s.bufRead i := rfl
@[simp] theorem State.select_bufRead (v : BitVec 6) (b : Bool) (i : Nat) : (s.select v b).bufRead i = s.bufRead i := rfl
@[simp] theorem State.beginEdge_bufRead (i : Nat) : s.beginEdge.bufRead i = s.bufRead i := rfl
@[simp] theorem State.acceptEdge_bufRead (i : Nat) : s.acceptEdge.bufRead i = s.bufRead i := rfl
@[simp] theorem State.waitEdge_bufRead (i : Nat) : s.waitEdge.bufRead i = s.bufRead i := rfl
@[simp] theorem State.retire_bufRead (i : Nat) : s.retire.bufRead i = s.bufRead i := rfl
@[simp] theorem State.clearEvent_bufRead (i : Nat) : s.clearEvent.bufRead i = s.bufRead i := rfl
@[simp] theorem State.frameReset_bufRead (i : Nat) : s.frameReset.bufRead i = none := by simp [State.bufRead]
@[simp] theorem State.powerReset_bufRead (i : Nat) : s.powerReset.bufRead i = none := by simp [State.bufRead]

/-! ### Order of updates -/

/-- The recovery and the report of an event do not touch each other's fields. -/
theorem State.frameReset_emit (r : EventRecord) : (s.emit r).frameReset = s.frameReset.emit r := rfl
theorem State.frameReset_select (v : BitVec 6) (b : Bool) : (s.select v b).frameReset = s.frameReset.select v b := rfl

end

/-! ### onNext -/

@[simp] theorem onNext_next (s : State) (f : State → State) : onNext (.next s) f = .next (f s) := rfl
@[simp] theorem onNext_fault (e : Fault) (f : State → State) : onNext (.fault e) f = .fault e := rfl
@[simp] theorem onNext_refused (e : Refusal) (f : State → State) : onNext (.refused e) f = .refused e := rfl

/-- A changed result is a next state exactly where the result was one. -/
theorem onNext_eq_next {r : Result} {f : State → State} {t : State} (h : onNext r f = .next t) :
    ∃ s, r = .next s ∧ t = f s := by
  cases r with
  | next s => exact ⟨s, rfl, by simpa using h.symm⟩
  | fault e => simp at h
  | refused e => simp at h

end Sys2Proof.Machine
end

