-- ==== Sys2Proof/Laws/Memory.lean ====
section
/-! SUPPORT. The laws of BUF's cells: read after write, the canonical form, and the cells of consecutive bytes. -/

namespace Sys2Proof.Machine

@[simp] theorem Memory.read_nil (a : Nat) : Memory.read [] a = none := rfl

/-- A cell written reads as written. -/
theorem Memory.read_write_same (m : Memory) (a : Nat) (v : Byte) : (m.write a v).read a = some v := by
  induction m with
  | nil => simp [Memory.write, Memory.read]
  | cons c m ih =>
    unfold Memory.write
    split
    · simp [Memory.read]
    · split
      · simp [Memory.read]
      · have : c.1 ≠ a := by omega
        simp [Memory.read, this, ih]

/-- A write leaves every other address alone. -/
theorem Memory.read_write_other (m : Memory) {a b : Nat} (v : Byte) (h : b ≠ a) : (m.write a v).read b = m.read b := by
  induction m with
  | nil => simp [Memory.write, Memory.read, Ne.symm h]
  | cons c m ih =>
    unfold Memory.write
    split
    · simp [Memory.read, Ne.symm h]
    · split
      · next hac => simp [Memory.read, Ne.symm h, ← hac]
      · simp [Memory.read, ih]

theorem Memory.risingFrom_write (m : Memory) : ∀ {n a : Nat} (v : Byte), n ≤ a → Memory.risingFrom n m = true →
    Memory.risingFrom n (m.write a v) = true := by
  induction m with
  | nil => intro n a v hn _; simp [Memory.write, Memory.risingFrom, hn]
  | cons c m ih =>
    intro n a v hn h
    simp only [Memory.risingFrom, Bool.and_eq_true, decide_eq_true_eq] at h
    unfold Memory.write
    split
    · next hlt => simp only [Memory.risingFrom, Bool.and_eq_true, decide_eq_true_eq]; exact ⟨hn, hlt, h.2⟩
    · split
      · next heq => subst heq; simp only [Memory.risingFrom, Bool.and_eq_true, decide_eq_true_eq]; exact ⟨hn, h.2⟩
      · simp only [Memory.risingFrom, Bool.and_eq_true, decide_eq_true_eq]
        exact ⟨h.1, ih v (by omega) h.2⟩

theorem Memory.all_write {p : Host.Cell → Bool} (m : Memory) {a : Nat} {v : Byte} (hp : p (a, v) = true)
    (h : m.all p = true) : (m.write a v).all p = true := by
  induction m with
  | nil => simpa [Memory.write] using hp
  | cons c m ih =>
    simp only [List.all_cons, Bool.and_eq_true] at h
    unfold Memory.write
    split
    · simp [List.all_cons, hp, h.1, h.2]
    · split
      · simp [List.all_cons, hp, h.2]
      · simp [List.all_cons, h.1, ih h.2]

/-- A write at an index BUF has keeps the canonical form. -/
theorem Memory.wf_write {m : Memory} {a : Nat} (v : Byte) (ha : a < Config.bufCap) (h : m.wf = true) :
    (m.write a v).wf = true := by
  simp only [Memory.wf, Bool.and_eq_true] at h ⊢
  exact ⟨Memory.risingFrom_write m v (Nat.zero_le a) h.1, Memory.all_write m (by simpa using ha) h.2⟩

/-- The buffer of the reset state and of a reset frame is in canonical form. -/
theorem Memory.wf_nil : Memory.wf [] = true := rfl

theorem State.reset_wf : State.reset.buf.wf = true := rfl

theorem State.frameReset_wf (s : State) : s.frameReset.buf.wf = true := rfl

theorem State.powerReset_wf (s : State) : s.powerReset.buf.wf = true := rfl

theorem State.appended_wf {s : State} (v : Byte) (hl : s.bufLen.toNat < Config.bufCap) (h : s.buf.wf = true) :
    (s.appended v).buf.wf = true := Memory.wf_write v hl h

/-! ### Consecutive bytes -/

theorem read_cellsFrom (bs : List Byte) : ∀ a i : Nat,
    (cellsFrom a bs).read i = if a ≤ i then bs[i - a]? else none := by
  induction bs with
  | nil => intro a i; simp [cellsFrom]
  | cons b bs ih =>
    intro a i
    simp only [cellsFrom, Memory.read, ih]
    by_cases h : a = i
    · simp [h]
    · by_cases h2 : a ≤ i
      · have h3 : a + 1 ≤ i := by omega
        have h4 : i - a = (i - (a + 1)) + 1 := by omega
        simp [h, h2, h3, h4]
      · have h3 : ¬ a + 1 ≤ i := by omega
        simp [h, h2, h3]

theorem write_cellsFrom_end (bs : List Byte) (v : Byte) : ∀ a : Nat,
    (cellsFrom a bs).write (a + bs.length) v = cellsFrom a (bs ++ [v]) := by
  induction bs with
  | nil => intro a; simp [cellsFrom, Memory.write]
  | cons b bs ih =>
    intro a
    have h := ih (a + 1)
    simp only [cellsFrom, List.cons_append, Memory.write, List.length_cons]
    rw [if_neg (by omega), if_neg (by omega), ← h]
    congr 2; omega

theorem map_fst_cellsFrom (bs : List Byte) : ∀ a : Nat, (cellsFrom a bs).map Prod.fst = List.range' a bs.length := by
  induction bs with
  | nil => intro a; rfl
  | cons b bs ih => intro a; simp [cellsFrom, ih, List.range'_succ]

theorem map_snd_cellsFrom (bs : List Byte) : ∀ a : Nat, (cellsFrom a bs).map Prod.snd = bs := by
  induction bs with
  | nil => intro a; rfl
  | cons b bs ih => intro a; simp [cellsFrom, ih]

/-- Cells at consecutive addresses are the cells of their bytes. -/
theorem eq_cellsFrom (m : Memory) : ∀ a : Nat, m.map Prod.fst = List.range' a m.length →
    m = cellsFrom a (m.map Prod.snd) := by
  induction m with
  | nil => intro a _; rfl
  | cons c m ih =>
    intro a h
    simp only [List.map_cons, List.length_cons, List.range'_succ, List.cons.injEq] at h
    simp only [List.map_cons, cellsFrom, List.cons.injEq]
    exact ⟨Prod.ext h.1 rfl, ih (a + 1) h.2⟩

theorem cellsFrom_wf (bs : List Byte) (h : bs.length ≤ Config.bufCap) : (cellsFrom 0 bs).wf = true := by
  have rising : ∀ (bs : List Byte) (a : Nat), Memory.risingFrom a (cellsFrom a bs) = true := by
    intro bs
    induction bs with
    | nil => intro a; rfl
    | cons b bs ih => intro a; simp [cellsFrom, Memory.risingFrom, ih]
  have below : ∀ (bs : List Byte) (a : Nat), a + bs.length ≤ Config.bufCap →
      (cellsFrom a bs).all (fun c => decide (c.1 < Config.bufCap)) = true := by
    intro bs
    induction bs with
    | nil => intro a _; rfl
    | cons b bs ih =>
      intro a ha
      simp only [List.length_cons] at ha
      simp only [cellsFrom, List.all_cons, Bool.and_eq_true, decide_eq_true_eq]
      exact ⟨by omega, ih (a + 1) (by omega)⟩
  simp only [Memory.wf, Bool.and_eq_true]
  exact ⟨rising bs 0, below bs 0 (by simpa using h)⟩

/-! ### The buffered bytes -/

/-- BUF holds exactly these bytes: BUF[0] to BUF[BUF_LEN − 1] (10_state.md R22). -/
structure Holds (s : State) (bytes : List Byte) : Prop where
  cells : s.buf = cellsFrom 0 bytes
  len : s.bufLen.toNat = bytes.length

theorem Holds.bufRead {s : State} {bytes : List Byte} (h : Holds s bytes) (i : Nat) : s.bufRead i = bytes[i]? := by
  unfold State.bufRead
  rw [h.len, h.cells, read_cellsFrom]
  split
  · simp
  · next hi => simp [List.getElem?_eq_none (Nat.le_of_not_lt hi)]

theorem Holds.bufBlock {s : State} {bytes : List Byte} (h : Holds s bytes) (n : Nat) : ∀ i : Nat,
    i + n ≤ bytes.length → s.bufBlock i n = some ((bytes.drop i).take n) := by
  induction n with
  | zero => intro i _; simp [State.bufBlock]
  | succ n ih =>
    intro i hi
    have hlt : i < bytes.length := by omega
    simp only [State.bufBlock, h.bufRead, List.getElem?_eq_getElem hlt, ih (i + 1) (by omega)]
    rw [List.drop_eq_getElem_cons hlt, List.take_succ_cons]

theorem Holds.appended {s : State} {bytes : List Byte} (h : Holds s bytes) (v : Byte)
    (hl : bytes.length < Config.bufCap) : Holds (s.appended v) (bytes ++ [v]) := by
  have hl' : bytes.length < 20 := hl
  constructor
  · rw [State.appended_buf, h.len, h.cells]
    simpa using write_cellsFrom_end bytes v 0
  · rw [State.appended_bufLen, BitVec.toNat_add, h.len]
    simp; omega

/-- R22 as `FramingInv` has it, from the bytes. -/
theorem Holds.written {s : State} {bytes : List Byte} (h : Holds s bytes) :
    s.buf.map Prod.fst = List.range s.bufLen.toNat := by
  rw [h.cells, map_fst_cellsFrom, h.len, List.range_eq_range']

/-- The bytes, from R22 as `FramingInv` has it. -/
theorem holds_of_written {s : State} (h : s.buf.map Prod.fst = List.range s.bufLen.toNat) :
    Holds s (s.buf.map Prod.snd) := by
  have hlen : s.buf.length = s.bufLen.toNat := by simpa using congrArg List.length h
  constructor
  · exact eq_cellsFrom s.buf 0 (by rw [h, hlen, List.range_eq_range'])
  · simp [hlen]

theorem Holds.bytes_eq {s : State} {bytes : List Byte} (h : Holds s bytes) : s.buf.map Prod.snd = bytes := by
  rw [h.cells, map_snd_cellsFrom]

end Sys2Proof.Machine
end

