-- ==== Sys2Proof/Laws/Assembler.lean ====
section
/-! SUPPORT. What the shared operations of the Assembler, Validator and Dispatcher can do, said once each: `dispatch_known`,
`validate_known`, `complete_holds`, `lenLookup_holds` and, for the whole of FRAG_INSYNC, `byteLoop_eq`. -/

namespace Sys2Proof.Machine

/-! ### Sensor types -/

/-- The lengths of LEN_TABLE are exactly the legal ones (30_encoding.md R78). -/
theorem legalLen_of_lenTable {t : Byte} {n : BitVec 5} (h : lenTable t = some n) : legalLen n = true := by
  unfold lenTable at h
  cases hr : typeRow t <;> simp [hr, TypeRow.length] at h <;> subst h <;> decide

theorem legalLen_bounds {n : BitVec 5} (h : legalLen n = true) : 6 ≤ n.toNat ∧ n.toNat ≤ 17 := by
  revert n; decide

/-- The row of a byte that has a length stands for that byte. -/
theorem typeRow_of_lenTable {t : Byte} {n : BitVec 5} (h : lenTable t = some n) : (typeRow t).code = t := by
  unfold lenTable typeRow at h
  unfold typeRow
  split_ifs at h ⊢ <;> simp_all [TypeRow.code, TypeRow.length]

/-- A byte without a length selects TYPE_UNKNOWN. -/
theorem typeRow_of_unknown {t : Byte} (h : lenTable t = none) : typeRow t = .unknown t := by
  unfold lenTable typeRow at h
  unfold typeRow
  split_ifs at h ⊢ <;> simp_all [TypeRow.length]

/-- DISPATCH of a known type writes its select bit, the flush strobe and the battery flag (42_dispatch.md R140). -/
theorem dispatch_known {s : State} {n : BitVec 5} (h : lenTable s.record.frmType = some n) :
    dispatch s = .next (s.select (selOf (typeRow s.record.frmType)) (decide (s.record.frmType = 0x60))) := by
  have hc := typeRow_of_lenTable h
  unfold dispatch
  unfold lenTable at h
  cases hr : typeRow s.record.frmType <;>
    simp only [hr, TypeRow.code, TypeRow.length, reduceCtorEq] at h hc <;>
    simp [runTypeRow, execTypeRain, execTypeTempHum, execTypePressure, execTypeUv, execTypeWind,
      execTypeStatus, selOf, ← hc]

theorem expKnown_eq_false {e : BitVec 5} (h : e = 0) : expKnown e = false := by subst h; rfl

theorem expKnown_eq_true {e : BitVec 5} (h : e ≠ 0) : expKnown e = true := bne_iff_ne.mpr h

/-- DISPATCH of an unknown type, when a length is known, faults (R147). -/
theorem dispatch_unknown {s : State} (h : lenTable s.record.frmType = none) (he : s.expLen ≠ 0) :
    dispatch s = .fault .unknownTypeAtDispatch := by
  simp [dispatch, typeRow_of_unknown h, runTypeRow, execTypeUnknown, expKnown_eq_true he]

/-! ### Records and checksums -/

/-- FRM_DATA[j] is the j-th byte, and 0 beyond the last (10_state.md R30). -/
theorem frmDataOf_getElem (l : List Byte) {j : Nat} (hj : j < 17) :
    (frmDataOf l)[j] = l.getD j 0 := by
  simp only [frmDataOf, Vector.getElem_mk, List.getElem_toArray, List.getElem_take, List.getElem_append,
    List.getD_eq_getElem?_getD]
  split
  · next hh => rw [List.getElem?_eq_getElem hh]; rfl
  · next hh => rw [List.getElem?_eq_none (by omega), List.getElem_replicate]; rfl

theorem byteSum_le (l : List Byte) : byteSum l ≤ 255 * l.length := by
  induction l with
  | nil => simp [byteSum]
  | cons b l ih => simp only [byteSum, List.length_cons]; have := b.isLt; omega

theorem pair16_toNat (hi lo : Byte) : (pair16 hi lo).toNat = lo.toNat + 256 * hi.toNat := by
  have := lo.isLt
  rw [pair16, BitVec.toNat_append, Nat.shiftLeft_eq, Nat.mul_comm, ← Nat.two_pow_add_eq_or_of_lt this]
  omega

/-! ### Validator and completion -/

/-- What becomes of a complete frame (40_assembler.md R110, 41_validator.md R130): discarded, dispatched, or counted. -/
def frameOutcome (frame : List Byte) (surplus : Bool) (s : State) : State :=
  if surplus && s.params.overrunPolicy == .discard then s.frameReset.emit (recOverrun frame)
  else if rxChecksum frame = calcChecksum frame then
    (s.frameReset.emit (recFrameOk frame surplus)).select (selOf (typeRow (frame.getD 1 0)))
      (decide (frame.getD 1 0 = 0x60))
  else s.frameReset.bumpCsumErr.emit (recCsumErr frame surplus)

theorem validate_known {frame : List Byte} {n : BitVec 5} (surplus : Bool) (s : State)
    (h : lenTable (frame.getD 1 0) = some n) :
    validate frame surplus s =
      if rxChecksum frame = calcChecksum frame then
        .next ((s.emit (recFrameOk frame surplus)).select (selOf (typeRow (frame.getD 1 0)))
          (decide (frame.getD 1 0 = 0x60)))
      else .next (s.bumpCsumErr.emit (recCsumErr frame surplus)) := by
  unfold validate
  split
  · rw [dispatch_known (n := n) (by simpa [recFrameOk, recFrame] using h)]
    simp [recFrameOk, recFrame]
  · rfl

/-- COMPLETE of a buffered frame of a known type ends in the frame's outcome. -/
theorem complete_holds {s : State} {bytes : List Byte} {n : BitVec 5} (surplus : Bool) (hb : Holds s bytes)
    (hl : legalLen s.expLen = true) (hn : s.expLen.toNat ≤ bytes.length)
    (ht : lenTable (bytes.getD 1 0) = some n) :
    complete surplus s = .next (frameOutcome (bytes.take s.expLen.toNat) surplus s) := by
  have hbounds := legalLen_bounds hl
  have ht' : lenTable ((bytes.take s.expLen.toNat).getD 1 0) = some n := by
    rw [← ht]; congr 1
    simp only [List.getD_eq_getElem?_getD, List.getElem?_take]
    rw [if_pos (by omega)]
  unfold complete frameOutcome
  rw [if_pos hl, hb.bufBlock s.expLen.toNat 0 (by simpa using hn)]
  simp only [List.drop_zero]
  split
  · rfl
  · rw [validate_known surplus s ht']
    split <;> rfl

/-- LEN_LOOKUP with the bytes at hand (R108, R109). -/
theorem lenLookup_holds {s : State} {bytes : List Byte} (hb : Holds s bytes) (hlen : 3 ≤ bytes.length)
    (he : s.expLen = 0) :
    lenLookup s =
      match lenTable (bytes.getD 1 0) with
      | some n => .more (s.setExpLen n)
      | none => .ended (.next (s.frameReset.emit (recUnknownType (bytes.getD 1 0) (bytes.take 3)))) := by
  have h1 : s.bufRead 1 = some (bytes.getD 1 0) := by
    rw [hb.bufRead, List.getD_eq_getElem?_getD, List.getElem?_eq_getElem (by omega)]; rfl
  unfold lenLookup
  rw [h1]
  simp only
  cases hr : lenTable (bytes.getD 1 0) with
  | some n => rfl
  | none =>
    simp [execTypeUnknown, expKnown_eq_false he, unknownTypeDiscard, Config.lookupAt, hb.bufBlock 3 0 (by simpa using hlen)]

/-! ### The byte loop -/

/-- What R25 says of the bytes buffered between steps, while in sync. -/
def Buffering (s : State) (bytes : List Byte) : Prop :=
  Holds s bytes ∧
    ((s.expLen = 0 ∧ bytes.length ≤ 2) ∨
     (s.expLen ≠ 0 ∧ 3 ≤ bytes.length ∧ bytes.length < s.expLen.toNat ∧
       lenTable (bytes.getD 1 0) = some s.expLen))

/-- BUF, BUF_LEN and EXP_LEN hold these bytes and this expected length, everything else as in `s`. -/
def State.accumulated (all : List Byte) (expLen : BitVec 5) (s : State) : State :=
  { s with buf := cellsFrom 0 all, bufLen := BitVec.ofNat 5 all.length, expLen := expLen }

/-- The outcome of appending bytes to a frame in progress, from all its bytes (R106 to R112, R114). -/
def insyncOutcome (all : List Byte) (s : State) : State :=
  if all.length ≤ 2 then s.accumulated all 0
  else
    match lenTable (all.getD 1 0) with
    | none => s.frameReset.emit (recUnknownType (all.getD 1 0) (all.take 3))
    | some n =>
      if all.length < n.toNat then s.accumulated all n
      else frameOutcome (all.take n.toNat) (decide (n.toNat < all.length)) s

/-- At most two bytes so far: the length is not known yet (R112). -/
theorem insyncOutcome_short {all : List Byte} (s : State) (h : all.length ≤ 2) :
    insyncOutcome all s = s.accumulated all 0 := by
  unfold insyncOutcome; rw [if_pos h]

/-- An unknown type byte at the third byte (R109). -/
theorem insyncOutcome_unknown {all : List Byte} (s : State) (h : 3 ≤ all.length)
    (ht : lenTable (all.getD 1 0) = none) :
    insyncOutcome all s = s.frameReset.emit (recUnknownType (all.getD 1 0) (all.take 3)) := by
  unfold insyncOutcome; rw [if_neg (by omega), ht]

/-- A known length not reached yet (R112). -/
theorem insyncOutcome_incomplete {all : List Byte} {n : BitVec 5} (s : State) (h : 3 ≤ all.length)
    (ht : lenTable (all.getD 1 0) = some n) (hl : all.length < n.toNat) :
    insyncOutcome all s = s.accumulated all n := by
  unfold insyncOutcome; rw [if_neg (by omega), ht]; simp only [if_pos hl]

/-- A known length reached (R110). -/
theorem insyncOutcome_complete {all : List Byte} {n : BitVec 5} (s : State)
    (ht : lenTable (all.getD 1 0) = some n) (hl : n.toNat ≤ all.length) :
    insyncOutcome all s = frameOutcome (all.take n.toNat) (decide (n.toNat < all.length)) s := by
  have := legalLen_bounds (legalLen_of_lenTable ht)
  unfold insyncOutcome; rw [if_neg (by omega), ht]; simp only [if_neg (Nat.not_lt.mpr hl)]

theorem Holds.accumulated_eq {s : State} {bytes : List Byte} (h : Holds s bytes) :
    s.accumulated bytes s.expLen = s := by
  have : BitVec.ofNat 5 bytes.length = s.bufLen := by rw [← h.len]; simp
  unfold State.accumulated
  rw [← h.cells, this]

/-- Everything before an outcome but the framing group is forgotten by it. -/
theorem frameOutcome_congr {s s' : State} (frame : List Byte) (surplus : Bool) (h : s.frameReset = s'.frameReset)
    (hp : s.params = s'.params) : frameOutcome frame surplus s = frameOutcome frame surplus s' := by
  unfold frameOutcome
  rw [h, hp]

theorem appended_accumulated {s : State} {bytes : List Byte} (h : Holds s bytes) (v : Byte)
    (hl : bytes.length < Config.bufCap) : s.appended v = s.accumulated (bytes ++ [v]) s.expLen :=
  (h.appended v hl).accumulated_eq.symm

theorem getD_append_one {bytes : List Byte} (h : 2 ≤ bytes.length) (more : List Byte) :
    (bytes ++ more).getD 1 0 = bytes.getD 1 0 := by
  simp only [List.getD_eq_getElem?_getD]
  rw [List.getElem?_append_left (by omega)]

/-- One turn of the loop, from a frame in progress: it goes on with one more byte, or the step ends in the outcome of the
bytes so far. -/
theorem byteStep_eq {s : State} {bytes : List Byte} (v : Byte) (rest : List Byte) (h : Buffering s bytes) :
    (∃ s', byteStep v (!rest.isEmpty) s = .more s' ∧ Buffering s' (bytes ++ [v]) ∧
        s' = s.accumulated (bytes ++ [v]) s'.expLen) ∨
      byteStep v (!rest.isEmpty) s = .ended (.next (insyncOutcome (bytes ++ v :: rest) s)) := by
  obtain ⟨hb, hphase⟩ := h
  have hcap : bytes.length < 20 := by
    rcases hphase with ⟨-, hle⟩ | ⟨-, -, hlt, htab⟩
    · omega
    · have := legalLen_bounds (legalLen_of_lenTable htab); omega
  have hb1 : Holds (s.appended v) (bytes ++ [v]) := hb.appended v hcap
  have happ : append v s = .more (s.appended v) := by
    unfold append; rw [if_pos (by rw [hb.len]; exact hcap)]
  have hlen1 : (s.appended v).bufLen.toNat = bytes.length + 1 := by simpa using hb1.len
  have hall : bytes ++ v :: rest = (bytes ++ [v]) ++ rest := by simp
  have hsur : (!rest.isEmpty) = decide (bytes.length + 1 < (bytes ++ v :: rest).length) := by
    cases rest <;> simp
  have hacc := appended_accumulated hb v hcap
  unfold byteStep
  rw [happ]
  simp only
  rcases hphase with ⟨he, hle⟩ | ⟨he, hge, hlt, htab⟩
  · -- the length is not known yet
    have he1 : (s.appended v).expLen = 0 := he
    by_cases h2 : bytes.length + 1 ≤ 2
    · left
      have hcond : (decide (2 < (s.appended v).bufLen.toNat) && !expKnown (s.appended v).expLen) = false := by
        rw [hlen1, decide_eq_false (by omega), Bool.false_and]
      rw [hcond]
      refine ⟨s.appended v, ?_, ⟨hb1, Or.inl ⟨he, by simpa using h2⟩⟩, hacc⟩
      simp [expKnown_eq_false he]
    · have hbl : bytes.length = 2 := by omega
      have hcond : (decide (2 < (s.appended v).bufLen.toNat) && !expKnown (s.appended v).expLen) = true := by
        rw [hlen1, decide_eq_true (by omega), expKnown_eq_false he1]; rfl
      rw [hcond]
      simp only [if_true]
      rw [lenLookup_holds hb1 (by simp [hbl]) he1]
      have ht1 : (bytes ++ v :: rest).getD 1 0 = (bytes ++ [v]).getD 1 0 := by
        rw [getD_append_one (by omega), getD_append_one (by omega)]
      cases hr : lenTable ((bytes ++ [v]).getD 1 0) with
      | none =>
        right
        have hlong : ¬ (bytes ++ v :: rest).length ≤ 2 := by simp [hbl]
        unfold insyncOutcome
        rw [if_neg hlong, ht1, hr]
        simp only
        have : (bytes ++ v :: rest).take 3 = (bytes ++ [v]).take 3 := by
          rw [hall, List.take_append_of_le_length (by simp [hbl])]
        rw [this]; rfl
      | some n =>
        left
        have hbnd := legalLen_bounds (legalLen_of_lenTable hr)
        refine ⟨(s.appended v).setExpLen n, ?_, ⟨⟨hb1.cells, hb1.len⟩, Or.inr ⟨?_, ?_, ?_, hr⟩⟩, ?_⟩
        · have hne : ¬ ((s.appended v).setExpLen n).bufLen = ((s.appended v).setExpLen n).expLen := by
            intro hc
            have := congrArg BitVec.toNat hc
            simp only [State.setExpLen_bufLen, State.setExpLen_expLen] at this
            rw [hlen1] at this
            omega
          simp only [beq_eq_false_iff_ne.mpr hne, Bool.and_false, Bool.false_eq_true, if_false]
        · intro hc
          rw [State.setExpLen_expLen] at hc
          rw [hc] at hbnd
          simp at hbnd
        · simp [hbl]
        · simp [hbl]; omega
        · rw [hacc]; rfl
  · -- the length is known
    have hbnd := legalLen_bounds (legalLen_of_lenTable htab)
    have hk : expKnown (s.appended v).expLen = true := expKnown_eq_true he
    rw [hk]
    simp only [Bool.not_true, Bool.and_false, Bool.false_eq_true, if_false, hk, Bool.true_and]
    have ht1 : (bytes ++ v :: rest).getD 1 0 = bytes.getD 1 0 := getD_append_one (by omega) _
    by_cases hfull : bytes.length + 1 = s.expLen.toNat
    · right
      have heq : (s.appended v).bufLen = (s.appended v).expLen := by
        apply BitVec.eq_of_toNat_eq; rw [hlen1]; exact hfull
      rw [if_pos (by simpa using heq)]
      rw [complete_holds (!rest.isEmpty) hb1 (legalLen_of_lenTable htab) (by simp; omega)
        (n := s.expLen) (by rw [getD_append_one (by omega)]; exact htab)]
      have hlong : ¬ (bytes ++ v :: rest).length ≤ 2 := by simp; omega
      have hnlt : ¬ (bytes ++ v :: rest).length < s.expLen.toNat := by simp; omega
      unfold insyncOutcome
      rw [if_neg hlong, ht1, htab]
      simp only
      rw [if_neg hnlt]
      have htake : (bytes ++ v :: rest).take s.expLen.toNat = (bytes ++ [v]).take s.expLen.toNat := by
        rw [hall, List.take_append_of_le_length (by simp; omega)]
      rw [htake, hsur, hfull]
      congr 2
    · left
      have hne : ¬ (s.appended v).bufLen = (s.appended v).expLen := by
        intro hc
        have := congrArg BitVec.toNat hc
        rw [hlen1] at this
        exact hfull this
      rw [if_neg (by simpa using hne)]
      refine ⟨s.appended v, rfl, ⟨hb1, Or.inr ⟨he, ?_, ?_, ?_⟩⟩, hacc⟩
      · simp; omega
      · simp only [List.length_append, List.length_singleton, State.appended_expLen]; omega
      · rw [getD_append_one (by omega)]; exact htab

theorem insyncOutcome_congr {s s' : State} (all : List Byte) (h : ∀ n, s.accumulated all n = s'.accumulated all n)
    (hr : s.frameReset = s'.frameReset) (hp : s.params = s'.params) : insyncOutcome all s = insyncOutcome all s' := by
  unfold insyncOutcome
  rw [h 0, hr]
  split
  · rfl
  · split
    · rfl
    · rw [h, frameOutcome_congr _ _ hr hp]

/-- A frame in progress is its own outcome so far. -/
theorem insyncOutcome_self {s : State} {bytes : List Byte} (h : Buffering s bytes) : insyncOutcome bytes s = s := by
  obtain ⟨hb, ⟨he, hle⟩ | ⟨he, hge, hlt, htab⟩⟩ := h
  · unfold insyncOutcome
    rw [if_pos hle]
    have := hb.accumulated_eq
    rwa [he] at this
  · unfold insyncOutcome
    rw [if_neg (by omega), htab]
    simp only
    rw [if_pos hlt]
    exact hb.accumulated_eq

/-- The whole of R106's loop: from a frame in progress it never faults, and its outcome depends on the bytes so far and
the new ones only, however they are split. -/
theorem byteLoop_eq (ds : List Byte) : ∀ {s : State} {bytes : List Byte}, Buffering s bytes →
    byteLoop ds s = .next (insyncOutcome (bytes ++ ds) s) := by
  induction ds with
  | nil => intro s bytes h; rw [List.append_nil, insyncOutcome_self h]; rfl
  | cons v rest ih =>
    intro s bytes h
    unfold byteLoop
    rcases byteStep_eq v rest h with ⟨s', hs, hb, hacc⟩ | hs
    · rw [hs]
      simp only
      rw [ih hb]
      congr 1
      rw [List.append_assoc, List.singleton_append]
      apply insyncOutcome_congr
      · intro n; rw [hacc]; rfl
      · rw [hacc]; rfl
      · rw [hacc]; rfl
    · rw [hs]

/-- FRAG_INSYNC from a state that meets the framing invariants, in sync. -/
theorem buffering_of_inv {s : State} (h : FramingInv s) : Buffering s (s.buf.map Prod.snd) := by
  have hb := holds_of_written h.written
  refine ⟨hb, ?_⟩
  by_cases he : s.expLen = 0
  · left; exact ⟨he, by rw [← hb.len]; exact h.unknownLength he⟩
  · right
    obtain ⟨t, ht, htab⟩ := h.fromTable he
    have hk := h.knownLength he
    refine ⟨he, by rw [← hb.len]; exact hk.1, by rw [← hb.len]; exact hk.2, ?_⟩
    rw [hb.bufRead] at ht
    rw [List.getD_eq_getElem?_getD, ht]
    exact htab

/-- A frame in progress, while in sync, meets the framing invariants. -/
theorem framingInv_of_buffering {s : State} {bytes : List Byte} (h : Buffering s bytes) (hs : s.syncCnt = 2) :
    FramingInv s := by
  obtain ⟨hb, hp⟩ := h
  have hl := hb.len
  refine ⟨by rw [hs]; decide, fun hc => absurd hs hc, ?_, ?_, hb.written, ?_⟩
  · intro he
    rcases hp with ⟨-, hle⟩ | ⟨hne, -⟩
    · omega
    · exact absurd he hne
  · intro he
    rcases hp with ⟨h0, -⟩ | ⟨-, hge, hlt, -⟩
    · exact absurd h0 he
    · omega
  · intro he
    rcases hp with ⟨h0, -⟩ | ⟨-, hge, -, htab⟩
    · exact absurd h0 he
    · refine ⟨bytes.getD 1 0, ?_, htab⟩
      rw [hb.bufRead, List.getD_eq_getElem?_getD, List.getElem?_eq_getElem (by omega)]; rfl

/-- FRAG_INSYNC (R106) from every state that meets the framing invariants. -/
theorem execFragInsync_eq (f : Fragment) {s : State} (h : FramingInv s) :
    execFragInsync f s = .next (insyncOutcome (s.buf.map Prod.snd ++ f.declared) s) :=
  byteLoop_eq f.declared (buffering_of_inv h)

end Sys2Proof.Machine
end

