-- ==== Sys2Proof/Laws/Step.lean ====
section
/-! SUPPORT. What an instruction and a step can do from ANY state, reachable or not, said once each: `transact_frag_cases`
for a transaction and `step_cases` for a clock edge. -/

namespace Sys2Proof.Machine

/-! ### The decoder inside the machine -/

/-- The chain of 40_assembler.md R100 is what the key table of 30_encoding.md R75 selects. -/
theorem opRow_keyOf_frag (p : Config.Params) (c : BitVec 2) (f : Fragment) :
    opRow (keyOf p c (.frag f)) =
      if f.malformed then .malformed
      else if c = 2 then .insync
      else if c = 1 ∧ f.marker p = false then .falseStart
      else if c = 3 then .reserved
      else if f.marker p then .marker
      else .idle := by
  simp only [keyOf]
  generalize f.malformed = m
  generalize f.marker p = k
  revert c m k
  decide

theorem opRow_keyOf_rst (p : Config.Params) (c : BitVec 2) : opRow (keyOf p c .rst) = .reset := by
  simp only [keyOf]
  revert c
  decide

@[simp] theorem decodeOp_rst (p : Config.Params) (c : BitVec 2) : decodeOp p c .rst = .reset := by
  simp [decodeOp, decodeKeyed, opRow_keyOf_rst, OpRow.instr]

@[simp] theorem transact_rst (s : State) : transact .rst s = .next s.powerReset := by
  simp [transact, exec, execReset]

/-- The transaction step of a fragment, as the chain of R100. -/
theorem transact_frag (f : Fragment) (s : State) :
    transact (.frag f) s =
      if f.malformed then .next (s.emit recMalformed)
      else if s.syncCnt = 2 then execFragInsync f s
      else if s.syncCnt = 1 ∧ f.marker s.params = false then .next (s.setSyncCnt 0)
      else if s.syncCnt = 3 then .fault .syncUnreachable
      else if f.marker s.params then .next (s.setSyncCnt (s.syncCnt + 1))
      else .next s := by
  unfold transact decodeOp decodeKeyed
  rw [opRow_keyOf_frag]
  split_ifs <;> rfl

/-! ### What the Assembler's loop can do -/

/-- The fields no transaction of a fragment writes: the handshake's, the parameters and the model's own. -/
structure Kept (s t : State) : Prop where
  busy : t.busy = s.busy
  pend : t.pend = s.pend
  params : t.params = s.params
  inputs : t.inputs = s.inputs
  offer : t.offer = s.offer
  remaining : t.remaining = s.remaining
  latChoice : t.latChoice = s.latChoice
  freeIdx : t.freeIdx = s.freeIdx

theorem Kept.refl (s : State) : Kept s s := ⟨rfl, rfl, rfl, rfl, rfl, rfl, rfl, rfl⟩

theorem Kept.trans {s t u : State} (h : Kept s t) (k : Kept t u) : Kept s u :=
  ⟨k.busy.trans h.busy, k.pend.trans h.pend, k.params.trans h.params, k.inputs.trans h.inputs, k.offer.trans h.offer,
   k.remaining.trans h.remaining, k.latChoice.trans h.latChoice, k.freeIdx.trans h.freeIdx⟩

/-- No event: the record, EV_VALID, SYNC_CNT and the counter are as before. -/
structure Quiet (s t : State) : Prop where
  kept : Kept s t
  evValid : t.evValid = s.evValid
  record : t.record = s.record
  syncCnt : t.syncCnt = s.syncCnt
  csumErrCnt : t.csumErrCnt = s.csumErrCnt

theorem Quiet.refl (s : State) : Quiet s s := ⟨Kept.refl s, rfl, rfl, rfl, rfl⟩

theorem Quiet.trans {s t u : State} (h : Quiet s t) (k : Quiet t u) : Quiet s u :=
  ⟨h.kept.trans k.kept, k.evValid.trans h.evValid, k.record.trans h.record, k.syncCnt.trans h.syncCnt,
   k.csumErrCnt.trans h.csumErrCnt⟩

/-- An event of a frame and its recovery (60_exceptions.md R200, R206). -/
structure Reported (s t : State) (c : EventCode) : Prop where
  kept : Kept s t
  evValid : t.evValid = true
  code : t.record.evCode = c.bits
  notMalformed : c ≠ .malformed
  syncCnt : t.syncCnt = 0
  buf : t.buf = []
  bufLen : t.bufLen = 0
  expLen : t.expLen = 0
  csumErrCnt : t.csumErrCnt = if c = .csumErr then s.csumErrCnt + 1 else s.csumErrCnt
  overrun : c = .overrun → s.params.overrunPolicy = .discard
  sel : if c = .frameOk then oneHot t.record.frmSel = true else t.record.frmSel = 0
  flush : t.record.flush = decide (c = .frameOk ∧ t.record.frmType = 0x60)
  batLow : t.record.batLow = (decide (c = .frameOk) && batteryLow t.record.frmData[0])

theorem Quiet.reported {s t u : State} {c : EventCode} (h : Quiet s t) (k : Reported t u c) : Reported s u c :=
  ⟨h.kept.trans k.kept, k.evValid, k.code, k.notMalformed, k.syncCnt, k.buf, k.bufLen, k.expLen,
   by rw [k.csumErrCnt, h.csumErrCnt], fun e => by rw [← h.kept.params]; exact k.overrun e, k.sel, k.flush, k.batLow⟩

theorem frmType_code (t : Byte) (h : ∀ u, typeRow t ≠ .unknown u) : (typeRow t).code = t := by
  unfold typeRow at h ⊢
  split_ifs at h ⊢ <;> simp_all [TypeRow.code]

/-- VALIDATE with the frame reset after it, from any state: an event of the frame, or a fault. -/
theorem validate_reported {frame : List Byte} {surplus : Bool} {s u t : State} (he : s.expLen ≠ 0)
    (hv : validate frame surplus s = .next u) (ht : t = u.frameReset) : ∃ c, Reported s t c := by
  subst ht
  unfold validate at hv
  split at hv
  · cases hl : lenTable (frame.getD 1 0) with
    | none =>
      rw [dispatch_unknown (s := s.emit (recFrameOk frame surplus)) (by simpa [recFrameOk, recFrame] using hl)
        (by simpa using he)] at hv
      simp at hv
    | some n =>
      rw [dispatch_known (s := s.emit (recFrameOk frame surplus)) (n := n)
        (by simpa [recFrameOk, recFrame] using hl)] at hv
      simp only [Host.Outcome.next.injEq] at hv
      subst hv
      refine ⟨.frameOk, ⟨rfl, rfl, rfl, rfl, rfl, rfl, rfl, rfl⟩, rfl, rfl, by decide, rfl, rfl, rfl, rfl, rfl,
        (fun hc => nomatch hc), ?_, ?_, ?_⟩
      · simp only [if_true]
        simp only [State.frameReset_record, State.select_record, State.emit_record, recFrameOk, recFrame]
        unfold lenTable at hl
        revert hl
        generalize typeRow (frame.getD 1 0) = r
        intro hl
        cases r with
        | unknown t => exact nomatch hl
        | _ => decide
      · simp [recFrameOk, recFrame]
      · simp
  · simp only [Host.Outcome.next.injEq] at hv
    subst hv
    exact ⟨.csumErr, ⟨rfl, rfl, rfl, rfl, rfl, rfl, rfl, rfl⟩, rfl, rfl, by decide, rfl, rfl, rfl, rfl, rfl,
      (fun hc => nomatch hc), rfl, by simp [recCsumErr, recFrame, EventRecord.zero], by simp [recCsumErr, recFrame, EventRecord.zero]⟩

theorem expKnown_true {e : BitVec 5} (h : expKnown e = true) : e ≠ 0 := bne_iff_ne.mp h

/-- COMPLETE from any state with a known length: an event of the frame, or a fault. -/
theorem complete_reported {surplus : Bool} {s t : State} (he : s.expLen ≠ 0) (h : complete surplus s = .next t) :
    ∃ c, Reported s t c := by
  unfold complete at h
  split at h
  · split at h
    · simp at h
    · split at h
      · next hd =>
        simp only [Host.Outcome.next.injEq] at h
        subst h
        simp only [Bool.and_eq_true, beq_iff_eq] at hd
        exact ⟨.overrun, ⟨rfl, rfl, rfl, rfl, rfl, rfl, rfl, rfl⟩, rfl, rfl, by decide, rfl, rfl, rfl, rfl, rfl,
          fun _ => hd.2, rfl, by simp [recOverrun, recFrame, EventRecord.zero],
          by simp [recOverrun, recFrame, EventRecord.zero]⟩
      · obtain ⟨u, hu, rfl⟩ := onNext_eq_next h
        exact validate_reported he hu rfl
  · simp at h

/-- UNKNOWN_TYPE_DISCARD from any state. -/
theorem unknownTypeDiscard_reported {ty : Byte} {s t : State} (h : unknownTypeDiscard ty s = .next t) :
    Reported s t .unknownType := by
  unfold unknownTypeDiscard at h
  split at h
  · simp only [Host.Outcome.next.injEq] at h
    subst h
    exact ⟨⟨rfl, rfl, rfl, rfl, rfl, rfl, rfl, rfl⟩, rfl, rfl, by decide, rfl, rfl, rfl, rfl, rfl, (fun hc => nomatch hc), rfl,
      by simp [recUnknownType, EventRecord.zero], by simp [recUnknownType, EventRecord.zero]⟩
  · simp at h

/-- One turn of the loop from any state: it goes on quietly, reports an event of the frame, or faults. -/
theorem byteStep_cases (v : Byte) (surplus : Bool) (s : State) :
    (∃ s', byteStep v surplus s = .more s' ∧ Quiet s s') ∨
      (∃ r, byteStep v surplus s = .ended r ∧ ∀ t, r = .next t → ∃ c, Reported s t c) := by
  unfold byteStep append
  split_ifs with hcap
  · simp only
    have hq : Quiet s (s.appended v) := ⟨⟨rfl, rfl, rfl, rfl, rfl, rfl, rfl, rfl⟩, rfl, rfl, rfl, rfl⟩
    have second : ∀ s2 : State, Quiet s s2 →
        (∃ s', (if (expKnown s2.expLen && s2.bufLen == s2.expLen) = true then Micro.ended (complete surplus s2)
            else Micro.more s2) = .more s' ∧ Quiet s s') ∨
          (∃ r, (if (expKnown s2.expLen && s2.bufLen == s2.expLen) = true then Micro.ended (complete surplus s2)
            else Micro.more s2) = .ended r ∧ ∀ t, r = .next t → ∃ c, Reported s t c) := by
      intro s2 h2
      split_ifs with hc
      · right
        refine ⟨_, rfl, fun t ht => ?_⟩
        simp only [Bool.and_eq_true] at hc
        obtain ⟨c, hr⟩ := complete_reported (expKnown_true hc.1) ht
        exact ⟨c, h2.reported hr⟩
      · exact Or.inl ⟨s2, rfl, h2⟩
    split_ifs with hl
    · unfold lenLookup
      cases hb : (s.appended v).bufRead 1 with
      | none => right; exact ⟨_, rfl, fun t ht => by simp at ht⟩
      | some ty =>
        simp only
        cases hn : lenTable ty with
        | some n =>
          simp only
          exact second _ (hq.trans ⟨⟨rfl, rfl, rfl, rfl, rfl, rfl, rfl, rfl⟩, rfl, rfl, rfl, rfl⟩)
        | none =>
          right
          refine ⟨_, rfl, fun t ht => ?_⟩
          unfold execTypeUnknown at ht
          split at ht
          · simp at ht
          · exact ⟨.unknownType, hq.reported (unknownTypeDiscard_reported ht)⟩
    · exact second _ hq
  · right; exact ⟨_, rfl, fun t ht => by simp at ht⟩

/-- FRAG_INSYNC's loop from any state: quiet, an event of the frame with its recovery, or a fault. -/
theorem byteLoop_cases (ds : List Byte) : ∀ {s t : State}, byteLoop ds s = .next t →
    Quiet s t ∨ ∃ c, Reported s t c := by
  induction ds with
  | nil =>
    intro s t h
    simp only [byteLoop, Host.Outcome.next.injEq] at h
    subst h
    exact Or.inl (Quiet.refl s)
  | cons v rest ih =>
    intro s t h
    unfold byteLoop at h
    rcases byteStep_cases v (!rest.isEmpty) s with ⟨s', hs, hq⟩ | ⟨r, hs, hr⟩
    · rw [hs] at h
      rcases ih h with hq' | ⟨c, hc⟩
      · exact Or.inl (hq.trans hq')
      · exact Or.inr ⟨c, hq.reported hc⟩
    · rw [hs] at h
      exact Or.inr (hr t h)

/-! ### One transaction, one edge -/

/-- What the transaction of a fragment can do from any state. -/
theorem transact_frag_cases {f : Fragment} {s t : State} (h : transact (.frag f) s = .next t) :
    (f.malformed = true ∧ t = s.emit recMalformed) ∨
    (f.malformed = false ∧ s.syncCnt = 2 ∧ (Quiet s t ∨ ∃ c, Reported s t c)) ∨
    (f.malformed = false ∧ s.syncCnt = 1 ∧ f.marker s.params = false ∧ t = s.setSyncCnt 0) ∨
    (f.malformed = false ∧ (s.syncCnt = 0 ∨ s.syncCnt = 1) ∧ f.marker s.params = true ∧
      t = s.setSyncCnt (s.syncCnt + 1)) ∨
    (f.malformed = false ∧ s.syncCnt = 0 ∧ f.marker s.params = false ∧ t = s) := by
  rw [transact_frag] at h
  have hc : s.syncCnt = 0 ∨ s.syncCnt = 1 ∨ s.syncCnt = 2 ∨ s.syncCnt = 3 := by
    generalize s.syncCnt = c; revert c; decide
  cases hm : f.malformed <;> rw [hm] at h
  · simp only [Bool.false_eq_true, if_false] at h
    split_ifs at h with h2 h1 h3 hk
    · exact Or.inr (Or.inl ⟨rfl, h2, byteLoop_cases _ h⟩)
    · simp only [Host.Outcome.next.injEq] at h
      exact Or.inr (Or.inr (Or.inl ⟨rfl, h1.1, h1.2, h.symm⟩))
    · simp only [Host.Outcome.next.injEq] at h
      refine Or.inr (Or.inr (Or.inr (Or.inl ⟨rfl, ?_, hk, h.symm⟩)))
      rcases hc with h0 | h0 | h0 | h0
      · exact Or.inl h0
      · exact Or.inr h0
      · exact absurd h0 h2
      · exact absurd h0 h3
    · simp only [Host.Outcome.next.injEq] at h
      refine Or.inr (Or.inr (Or.inr (Or.inr ⟨rfl, ?_, Bool.eq_false_iff.mpr hk, h.symm⟩)))
      rcases hc with h0 | h0 | h0 | h0
      · exact h0
      · exact absurd ⟨h0, Bool.eq_false_iff.mpr hk⟩ h1
      · exact absurd h0 h2
      · exact absurd h0 h3
  · simp only [if_true, Host.Outcome.next.injEq] at h
    exact Or.inl ⟨rfl, h.symm⟩

/-- The operation of an edge, by its reasons. -/
theorem edgeOp_rst {s : State} (h : s.portIn.rst = true) : s.edgeOp = some .rst := by simp [State.edgeOp, h]

theorem edgeOp_frag {s : State} (hr : s.portIn.rst = false) (hb : s.busy = true) (hk : s.remaining ≤ 1) :
    s.edgeOp = some (.frag s.pend) := by simp [State.edgeOp, hr, hb, hk]

theorem edgeOp_none {s : State} (hr : s.portIn.rst = false) (h : s.busy = false ∨ 1 < s.remaining) :
    s.edgeOp = none := by
  rcases h with h | h
  · simp [State.edgeOp, hr, h]
  · simp [State.edgeOp, hr, h]

/-- What one edge can do: reset, complete the transaction in flight, or neither. -/
theorem step_cases {s t : State} (h : step s = .next t) :
    (s.portIn.rst = true ∧ t = s.beginEdge.powerReset) ∨
    (s.portIn.rst = false ∧ s.busy = true ∧ s.remaining ≤ 1 ∧
      ∃ u, transact (.frag s.pend) s.beginEdge = .next u ∧ t = u.retire) ∨
    (s.portIn.rst = false ∧ (s.busy = false ∨ 1 < s.remaining) ∧ t = s.quietEdge) := by
  unfold step at h
  cases hr : s.portIn.rst with
  | true =>
    rw [edgeOp_rst hr] at h
    simp only [transact_rst, onNext_next, Host.Outcome.next.injEq] at h
    exact Or.inl ⟨rfl, h.symm⟩
  | false =>
    right
    by_cases hb : s.busy = true ∧ s.remaining ≤ 1
    · rw [edgeOp_frag hr hb.1 hb.2] at h
      obtain ⟨u, hu, ht⟩ := onNext_eq_next h
      exact Or.inl ⟨rfl, hb.1, hb.2, u, hu, ht⟩
    · have hn : s.busy = false ∨ 1 < s.remaining := by
        cases hbb : s.busy with
        | false => exact Or.inl rfl
        | true => right; by_contra hc; exact hb ⟨hbb, by omega⟩
      rw [edgeOp_none hr hn] at h
      simp only [Host.Outcome.next.injEq] at h
      exact Or.inr ⟨rfl, hn, h.symm⟩

/-- An edge that completes no transaction. -/
theorem quietEdge_cases (s : State) :
    (s.busy = true ∧ s.quietEdge = s.waitEdge) ∨
    (s.busy = false ∧ s.portIn.valid = true ∧ s.quietEdge = s.acceptEdge) ∨
    (s.busy = false ∧ s.portIn.valid = false ∧ s.quietEdge = s.beginEdge) := by
  unfold State.quietEdge
  cases s.busy <;> cases s.portIn.valid <;> simp

/-- The host has kept R234: no offer stands, the inputs are free since the last acceptance, or this fragment is the one
raised. -/
def State.OfferKept (s : State) (f : Fragment) : Prop :=
  s.offer = .none ∨ s.offer = .released ∨ s.offer = .stable f

/-- The fragment captured is the one on the lanes when the host has kept R234. -/
theorem captured_eq {s : State} (h : s.OfferKept s.portIn.frag) : s.captured = s.portIn.frag := by
  rcases h with h | h | h <;> simp [State.captured, h]

/-- Where `in_valid` falls the offer ends, unless a raised one is withdrawn. -/
theorem Offer.next_quiet {o : Offer} {p : PortIn} (ho : o = .none ∨ o = .released) (h : p.valid = false) :
    Offer.next o p = .none := by
  rcases ho with rfl | rfl <;> simp [Offer.next, h]

/-- Inputs left at `in_valid = 1` by the last acceptance stay free, whatever they carry (70_reset_and_hazards.md R234
(b)). -/
theorem Offer.next_released {p : PortIn} (h : p.valid = true) : Offer.next .released p = .released := by
  simp [Offer.next, h]

/-- A fragment kept on the lanes at this edge keeps R234. -/
theorem Offer.next_kept {o : Offer} {p : PortIn} (h : p.valid = true)
    (ho : o = .none ∨ o = .released ∨ o = .stable p.frag) :
    Offer.next o p = .released ∨ Offer.next o p = .stable p.frag := by
  rcases ho with rfl | rfl | rfl <;> simp [Offer.next, h]

/-- A latency lies between 1 and LAT_MAX (70_reset_and_hazards.md R235). -/
theorem clipLatency_bounds {m : Nat} (k : Nat) (h : 1 ≤ m) : 1 ≤ clipLatency m k ∧ clipLatency m k ≤ m := by
  unfold clipLatency
  split <;> omega

theorem latency_bounds {s : State} (h : 1 ≤ s.params.latMax) : 1 ≤ s.latency ∧ s.latency ≤ s.params.latMax := by
  unfold State.latency
  split <;> exact clipLatency_bounds _ h

end Sys2Proof.Machine
end

