-- ==== Sys2Proof/Laws/Handshake.lean ====
section
/-! SUPPORT. A transaction neither reads nor writes the handshake, the host's side and the model's own fields: it commutes with
any change of them (`transact_around`). -/

namespace Sys2Proof.Machine

/-- `s` with the handshake, the host's side and the model's own fields of `w`. -/
def State.around (w s : State) : State :=
  { s with
    busy := w.busy, pend := w.pend, inputs := w.inputs, offer := w.offer, remaining := w.remaining,
    latChoice := w.latChoice, freeIdx := w.freeIdx }

/-- The same change after a micro-operation. -/
def Micro.around (w : State) : Micro → Micro
  | .more s => .more (w.around s)
  | .ended r => .ended (onNext r w.around)

theorem bufRead_around (w s : State) (i : Nat) : (w.around s).bufRead i = s.bufRead i := rfl

theorem bufBlock_around (w s : State) (n : Nat) : ∀ i : Nat, (w.around s).bufBlock i n = s.bufBlock i n := by
  induction n with
  | zero => intro i; rfl
  | succ n ih => intro i; simp only [State.bufBlock, ih, bufRead_around]

theorem dispatch_around (w s : State) : dispatch (w.around s) = onNext (dispatch s) w.around := by
  have hb := bufBlock_around w s Config.lookupAt 0
  unfold dispatch
  rw [show (w.around s).record = s.record from rfl]
  cases typeRow s.record.frmType with
  | unknown t =>
    simp only [runTypeRow, execTypeUnknown, unknownTypeDiscard, hb, show (w.around s).expLen = s.expLen from rfl]
    split
    · rfl
    · split <;> rfl
  | _ => rfl

theorem validate_around (w s : State) (frame : List Byte) (surplus : Bool) :
    validate frame surplus (w.around s) = onNext (validate frame surplus s) w.around := by
  unfold validate
  split
  · exact dispatch_around w (s.emit (recFrameOk frame surplus))
  · rfl

theorem complete_around (w s : State) (surplus : Bool) :
    complete surplus (w.around s) = onNext (complete surplus s) w.around := by
  unfold complete
  rw [show (w.around s).expLen = s.expLen from rfl, bufBlock_around,
    show (w.around s).params = s.params from rfl]
  simp only [validate_around]
  split
  · split
    · rfl
    · split
      · rfl
      · cases validate _ surplus s <;> rfl
  · rfl

theorem lenLookup_around (w s : State) : lenLookup (w.around s) = (lenLookup s).around w := by
  have hb := bufBlock_around w s Config.lookupAt 0
  unfold lenLookup
  rw [bufRead_around]
  split
  · rfl
  · split
    · rfl
    · simp only [execTypeUnknown, unknownTypeDiscard, hb, show (w.around s).expLen = s.expLen from rfl]
      split
      · rfl
      · split <;> rfl

theorem byteStep_around (w s : State) (v : Byte) (surplus : Bool) :
    byteStep v surplus (w.around s) = (byteStep v surplus s).around w := by
  have second : ∀ s2 : State,
      (if (expKnown (w.around s2).expLen && (w.around s2).bufLen == (w.around s2).expLen) = true then
          Micro.ended (complete surplus (w.around s2)) else Micro.more (w.around s2)) =
        (if (expKnown s2.expLen && s2.bufLen == s2.expLen) = true then Micro.ended (complete surplus s2)
          else Micro.more s2).around w := by
    intro s2
    rw [complete_around, show (w.around s2).expLen = s2.expLen from rfl, show (w.around s2).bufLen = s2.bufLen from rfl]
    split <;> rfl
  unfold byteStep append
  rw [show (w.around s).bufLen = s.bufLen from rfl]
  by_cases hcap : s.bufLen.toNat < Config.bufCap
  · simp only [if_pos hcap]
    rw [show (w.around s).appended v = w.around (s.appended v) from rfl, lenLookup_around,
      show (w.around (s.appended v)).expLen = (s.appended v).expLen from rfl,
      show (w.around (s.appended v)).bufLen = (s.appended v).bufLen from rfl]
    split_ifs with hl
    · cases lenLookup (s.appended v) with
      | more s2 => exact second s2
      | ended r => rfl
    · exact second _
  · simp only [if_neg hcap]; rfl

theorem byteLoop_around (w : State) (ds : List Byte) : ∀ s : State,
    byteLoop ds (w.around s) = onNext (byteLoop ds s) w.around := by
  induction ds with
  | nil => intro s; rfl
  | cons v rest ih =>
    intro s
    unfold byteLoop
    rw [byteStep_around]
    cases byteStep v (!rest.isEmpty) s with
    | more s' => exact ih s'
    | ended r => rfl

/-- The transaction of a fragment commutes with any change of the handshake, the host's side and the model's own fields. -/
theorem transact_around (w s : State) (f : Fragment) :
    transact (.frag f) (w.around s) = onNext (transact (.frag f) s) w.around := by
  rw [transact_frag, transact_frag, show (w.around s).syncCnt = s.syncCnt from rfl,
    show (w.around s).params = s.params from rfl]
  unfold execFragInsync
  rw [byteLoop_around]
  split_ifs <;> rfl

end Sys2Proof.Machine
end

