-- ==== Sys2Proof/Laws/PerInstr.lean ====
section
/-! SUPPORT. One lemma for each constructor of Instr. Family RowMatch: the selector that `encode` writes is taken by the row
of spec/opcode_table.json that the constructor stands for, and by no row before it. -/

namespace Sys2Proof.Laws

/-- The "match" and "mask" columns of spec/opcode_table.json, in priority order. -/
def tableRows : Format → List (Byte × Byte)
  | .opKey => [(16, 16), (8, 24), (4, 30), (2, 31), (1, 29), (0, 31), (6, 30)]
  | .type8 => [(65, 255), (66, 255), (70, 255), (71, 255), (72, 255), (96, 255), (0, 0)]

/-- The row of a constructor: its place in its half of the table. -/
def priority : Instr → Nat
  | .reset => 0
  | .fragMalformed _ => 1
  | .fragInsync _ => 2
  | .fragFalseStart _ => 3
  | .fragMarker _ => 4
  | .fragIdle _ => 5
  | .syncReserved => 6
  | .typeRain => 0
  | .typeTempHum => 1
  | .typePressure => 2
  | .typeUv => 3
  | .typeWind => 4
  | .typeStatus => 5
  | .typeUnknown _ => 6

/-- The first row of the table that takes the selector of a well-formed instruction is its own. -/
def RowMatch.Statement (i : Instr) : Prop :=
  ∀ p, i.wellFormed p = true → ∃ b rest, (encode i).2 = b :: rest ∧
    (tableRows (encode i).1).findIdx (fun r => b &&& r.2 == r.1) = priority i

theorem RowMatch.reset : RowMatch.Statement .reset := fun _ _ => ⟨_, _, rfl, by decide⟩
theorem RowMatch.fragMalformed (f : Fragment) : RowMatch.Statement (.fragMalformed f) := fun _ _ => ⟨_, _, rfl, by rfl⟩
theorem RowMatch.fragInsync (f : Fragment) : RowMatch.Statement (.fragInsync f) := fun _ _ => ⟨_, _, rfl, by rfl⟩
theorem RowMatch.fragFalseStart (f : Fragment) : RowMatch.Statement (.fragFalseStart f) := fun _ _ => ⟨_, _, rfl, by rfl⟩
theorem RowMatch.fragMarker (f : Fragment) : RowMatch.Statement (.fragMarker f) := fun _ _ => ⟨_, _, rfl, by rfl⟩
theorem RowMatch.fragIdle (f : Fragment) : RowMatch.Statement (.fragIdle f) := fun _ _ => ⟨_, _, rfl, by rfl⟩
theorem RowMatch.syncReserved : RowMatch.Statement .syncReserved := fun _ _ => ⟨_, _, rfl, by decide⟩
theorem RowMatch.typeRain : RowMatch.Statement .typeRain := fun _ _ => ⟨_, _, rfl, by decide⟩
theorem RowMatch.typeTempHum : RowMatch.Statement .typeTempHum := fun _ _ => ⟨_, _, rfl, by decide⟩
theorem RowMatch.typePressure : RowMatch.Statement .typePressure := fun _ _ => ⟨_, _, rfl, by decide⟩
theorem RowMatch.typeUv : RowMatch.Statement .typeUv := fun _ _ => ⟨_, _, rfl, by decide⟩
theorem RowMatch.typeWind : RowMatch.Statement .typeWind := fun _ _ => ⟨_, _, rfl, by decide⟩
theorem RowMatch.typeStatus : RowMatch.Statement .typeStatus := fun _ _ => ⟨_, _, rfl, by decide⟩

theorem unknown_row : ∀ t : Byte, (Machine.lenTable t).isNone = true →
    (tableRows .type8).findIdx (fun r => t &&& r.2 == r.1) = 6 := by decide

theorem RowMatch.typeUnknown (t : Byte) : RowMatch.Statement (.typeUnknown t) :=
  fun _ h => ⟨t, [], rfl, unknown_row t h⟩

end Sys2Proof.Laws
end

