-- ==== Sys2Proof/Tests/Slice0.lean ====
section
/-! SUPPORT. Tests on fixed values. Every expected value is written out from the spec: the encodings from 30_encoding.md R75 and
R78, the results from the derived vectors of 95_test_vectors.md (named A…, V…, X…, D…, T… there). The last part shows, for
each statement that has hypotheses, a state and operands that meet them all. -/

namespace Sys2Proof.Tests

open Sys2Proof.Machine Sys2Proof.Claims

/-! ### Small states -/

/-- A state `(SYNC_CNT, BUF_LEN, EXP_LEN, CSUM_ERR_CNT)` with BUF's valid bytes, the default policies and LAT_MAX = 3. -/
def st (sync : BitVec 2) (bytes : List Byte) (exp : BitVec 5) (cnt : BitVec 32) : State :=
  { State.reset with
    params := ⟨.truncate, true, 3⟩, syncCnt := sync, buf := cellsFrom 0 bytes,
    bufLen := BitVec.ofNat 5 bytes.length, expLen := exp, csumErrCnt := cnt }

/-- The same under the DISCARD policy. -/
def discarding (s : State) : State := { s with params := ⟨.discard, true, 3⟩ }

/-- The same with GATE_MARKER_BY_COUNT = false. -/
def ungated (s : State) : State := { s with params := ⟨.truncate, false, 3⟩ }

/-- `(SYNC_CNT, BUF's valid bytes, EXP_LEN, CSUM_ERR_CNT)` of a result. -/
def shape : Result → Option (BitVec 2 × List Byte × BitVec 5 × BitVec 32)
  | .next s => some (s.syncCnt, s.buf.map Prod.snd, s.expLen, s.csumErrCnt)
  | .fault _ => none
  | .refused _ => none

/-- What the tests compare of an event's record. -/
structure Ev where
  code    : BitVec 3
  ty      : Byte
  len     : BitVec 5
  surplus : Bool
  rx      : BitVec 16
  sum     : BitVec 16
  sel     : BitVec 6
  flush   : Bool
  batLow  : Bool
  deriving DecidableEq, Repr

/-- A result's event. -/
def ev : Result → Option Ev
  | .next s =>
    if s.evValid then
      let r := s.record
      some ⟨r.evCode, r.frmType, r.frmLen, r.surplus, r.csumRx, r.csumCalc, r.frmSel, r.flush, r.batLow⟩
    else none
  | .fault _ => none
  | .refused _ => none

/-- The first bytes of a result's FRM_DATA. -/
def data (n : Nat) : Result → List Byte
  | .next s => s.record.frmData.toList.take n
  | .fault _ => []
  | .refused _ => []

/-- The decoded fields of a result's event. -/
def fields : Result → Option Decoded
  | .next s => some (decoded s.record)
  | .fault _ => none
  | .refused _ => none

/-- One script line. -/
def one (l : Script) (s : State) : Result := transaction l.op s

/-! ### WellFormed: an ill-formed term for each check -/

/-- `in_err` is not set and the count is legal: not malformed. -/
theorem test_wf_malformed : Instr.wellFormed Config.defaultParams (.fragMalformed (fragOf [0xFF])) = false := by decide
/-- Count 20 is malformed (R74), so it is no in-sync fragment. -/
theorem test_wf_insync : Instr.wellFormed Config.defaultParams (.fragInsync ⟨false, 20, lanesOf []⟩) = false := by decide
/-- A marker is no false start. -/
theorem test_wf_falseStart : Instr.wellFormed Config.defaultParams (.fragFalseStart (fragOf [0xFF])) = false := by decide
/-- A malformed fragment is no false start. -/
theorem test_wf_falseStart_err : Instr.wellFormed Config.defaultParams (.fragFalseStart ⟨true, 1, lanesOf [0]⟩) = false := by decide
/-- Lane 0 = FF with count 0 is no marker when the count gates it (R73). -/
theorem test_wf_marker : Instr.wellFormed Config.defaultParams (.fragMarker ⟨false, 0, lanesOf [0xFF]⟩) = false := by decide
theorem test_wf_marker_err : Instr.wellFormed Config.defaultParams (.fragMarker ⟨true, 1, lanesOf [0xFF]⟩) = false := by decide
theorem test_wf_idle : Instr.wellFormed Config.defaultParams (.fragIdle (fragOf [0xFF])) = false := by decide
theorem test_wf_idle_err : Instr.wellFormed Config.defaultParams (.fragIdle ⟨true, 0, lanesOf []⟩) = false := by decide
/-- 0x41 is a known type (R78). -/
theorem test_wf_unknown : Instr.wellFormed Config.defaultParams (.typeUnknown 0x41) = false := by decide

/-! ### Decoding: words from R75 and R78 -/

/-- 95_test_vectors.md section 2.1: the rows of all 32 keys. -/
theorem test_key_partition :
    (List.range 32).map (fun k => opRow (BitVec.ofNat 5 k)) =
      [.idle, .marker, .falseStart, .marker, .insync, .insync, .reserved, .reserved] ++
      List.replicate 8 .malformed ++ List.replicate 16 .reset := by decide

/-- The seven rows of R75 do not overlap. -/
theorem test_key_rows_disjoint : keyTable.Pairwise (fun a b => a.row ≠ b.row ∧
    (a.pattern ^^^ b.pattern) &&& (a.mask &&& b.mask) ≠ 0) := by decide

theorem test_word_reset : decodeTableWord 8 0b10000 = some .reset := by decide
theorem test_word_reset_x : decodeTableWord 8 0b11111 = some .reset := by decide
theorem test_word_malformed : decodeTableWord 8 0b01000 = some (.fragMalformed ⟨true, 0, lanesOf [0]⟩) := by decide
theorem test_word_malformed_x : decodeTableWord 8 0b01111 = some (.fragMalformed ⟨true, 1, lanesOf [0xFF]⟩) := by decide
theorem test_word_insync : decodeTableWord 8 0b00100 = some (.fragInsync ⟨false, 0, lanesOf [0]⟩) := by decide
theorem test_word_falseStart : decodeTableWord 8 0b00010 = some (.fragFalseStart ⟨false, 0, lanesOf [0]⟩) := by decide
theorem test_word_marker : decodeTableWord 8 0b00001 = some (.fragMarker ⟨false, 1, lanesOf [0xFF]⟩) := by decide
theorem test_word_marker_one : decodeTableWord 8 0b00011 = some (.fragMarker ⟨false, 1, lanesOf [0xFF]⟩) := by decide
theorem test_word_idle : decodeTableWord 8 0b00000 = some (.fragIdle ⟨false, 0, lanesOf [0]⟩) := by decide
theorem test_word_reserved : decodeTableWord 8 0b00110 = some .syncReserved := by decide
theorem test_word_rain : decodeTableWord 8 0b01000001 = some .typeRain := by decide
theorem test_word_tempHum : decodeTableWord 8 0b01000010 = some .typeTempHum := by decide
theorem test_word_pressure : decodeTableWord 8 0b01000110 = some .typePressure := by decide
theorem test_word_uv : decodeTableWord 8 0b01000111 = some .typeUv := by decide
theorem test_word_wind : decodeTableWord 8 0b01001000 = some .typeWind := by decide
theorem test_word_status : decodeTableWord 8 0b01100000 = some .typeStatus := by decide
theorem test_word_unknown : decodeTableWord 8 0b10011001 = some (.typeUnknown 0x99) := by decide
theorem test_word_too_long : decodeTableWord 16 0x41 = none := by decide

/-- The key 00001, no error, count 2, the lanes FF 12 and zeros, then a byte of something else. -/
theorem test_decode_image :
    decode .opKey ([0b00001, 0, 2, 0xFF, 0x12] ++ List.replicate 17 0 ++ [0x77]) =
      .ok (.fragMarker ⟨false, 2, lanesOf [0xFF, 0x12]⟩, [0x77]) := by rfl
theorem test_reject_empty : decode .opKey [] = .error .empty := by rfl
theorem test_reject_key : decode .opKey [32] = .error (.keyTooWide 32) := by rfl
theorem test_reject_truncated : decode .opKey [0b00100, 0, 1, 0xFF] = .error .truncated := by rfl
theorem test_reject_err : decode .opKey ([0b00100, 2, 1] ++ List.replicate 19 0) = .error (.errNotABit 2) := by rfl
theorem test_reject_count : decode .opKey ([0b00100, 0, 32] ++ List.replicate 19 0) = .error (.countTooWide 32) := by rfl

/-- The step after `withFetchWord` runs the word: a known type is dispatched, an unknown one discarded, SYNC_CNT = 3 faults. -/
theorem test_fetch_wind :
    ev (step ((st 0 [] 0 0).withFetchWord 8 0b01001000)) =
      some ⟨1, 0x48, 11, false, 0x0048, 0x0048, 0b010000, false, false⟩ := by decide
theorem test_fetch_unknown :
    ev (step ((st 0 [] 0 0).withFetchWord 8 0x99)) = some ⟨3, 0x99, 3, false, 0, 0, 0, false, false⟩ := by decide
theorem test_fetch_reserved : step ((st 0 [] 0 0).withFetchWord 8 0b00111) = .fault .syncUnreachable := by rfl

/-! ### Assembler -/

theorem test_A1_reset : shape (one .rst (st 2 [1, 2, 3, 4, 5] 17 3)) = some (0, [], 0, 0) := by decide
theorem test_A2_idle : shape (one (.frag [0x00, 0x42, 0x01]) (st 0 [] 0 0)) = some (0, [], 0, 0) := by decide
theorem test_A3_marker : shape (one (.frag [0xFF]) (st 0 [] 0 0)) = some (1, [], 0, 0) := by decide
theorem test_A4_marker : shape (one (.frag [0xFF]) (st 1 [] 0 0)) = some (2, [], 0, 0) := by decide
theorem test_A5_falseStart : shape (one (.frag [0x12]) (st 1 [] 0 0)) = some (0, [], 0, 0) := by decide
theorem test_A7_idle : shape (one (.frag [0x12, 0xFF, 0xFF]) (st 0 [] 0 0)) = some (0, [], 0, 0) := by decide
theorem test_A9_lookup : shape (one (.frag [0x01]) (st 2 [0x00, 0x42] 0 0)) = some (2, [0x00, 0x42, 0x01], 12, 0) := by
  decide
theorem test_A10_complete :
    ev (one (.frag [0x01]) (st 2 [0x00, 0x42, 0x01, 0xD7, 0x00, 0x2D, 0x5B, 0x00, 0x00, 0x00, 0xA2] 12 0)) =
      some ⟨1, 0x42, 12, false, 0x01A2, 0x01A2, 0b000010, false, false⟩ := by decide
theorem test_A11_unknown :
    ev (one (.frag [0x00, 0x99, 0x00, 0x00]) (st 2 [] 0 0)) = some ⟨3, 0x99, 3, false, 0, 0, 0, false, false⟩ ∧
    data 4 (one (.frag [0x00, 0x99, 0x00, 0x00]) (st 2 [] 0 0)) = [0x00, 0x99, 0x00, 0x00] := by decide
/-- A11 with a fourth byte that is not zero: it is dropped, FRM_DATA[3] is 0. -/
theorem test_A12_dropped : data 4 (one (.frag [0x00, 0x11, 0x22]) (st 2 [0x00, 0x99] 0 0)) = [0x00, 0x99, 0x00, 0x00] := by
  decide
theorem test_A14_truncate :
    ev (one (.frag [0x00, 0x47, 0x00, 0x05, 0x4C, 0x00, 0xFF, 0xFF]) (st 2 [] 0 0)) =
      some ⟨1, 0x47, 6, true, 0x004C, 0x004C, 0b001000, false, false⟩ := by decide
theorem test_A14_discard :
    ev (one (.frag [0x00, 0x47, 0x00, 0x05, 0x4C, 0x00, 0xFF, 0xFF]) (discarding (st 2 [] 0 0))) =
      some ⟨5, 0x47, 6, true, 0, 0, 0, false, false⟩ := by decide
theorem test_A17_malformed : shape (one .bad (st 1 [] 0 0)) = some (1, [], 0, 0) ∧
    ev (one .bad (st 1 [] 0 0)) = some ⟨4, 0, 0, false, 0, 0, 0, false, false⟩ := by decide
theorem test_A19_malformed : ev (one (.fragN 20 [0xFF]) (st 1 [] 0 0)) = some ⟨4, 0, 0, false, 0, 0, 0, false, false⟩ := by
  decide
theorem test_A21_gate : shape (one (.fragN 0 [0xFF]) (st 1 [] 0 0)) = some (0, [], 0, 0) ∧
    shape (one (.fragN 0 [0xFF]) (ungated (st 1 [] 0 0))) = some (2, [], 0, 0) := by decide
theorem test_A25_reserved : transaction (.frag (fragOf [0x00])) (st 3 [] 0 0) = .fault .syncUnreachable := by rfl

/-! ### Validator and dispatch -/

theorem test_V2_swapped :
    ev (one (.frag [0x00, 0x47, 0x00, 0x05, 0x00, 0x4C]) (st 2 [] 0 7)) =
      some ⟨2, 0x47, 6, false, 0x4C00, 0x004C, 0, false, false⟩ ∧
    shape (one (.frag [0x00, 0x47, 0x00, 0x05, 0x00, 0x4C]) (st 2 [] 0 7)) = some (0, [], 0, 8) := by decide
theorem test_V3_wraps :
    shape (one (.frag [0x00, 0x47, 0x00, 0x05, 0x4C, 0x01]) (st 2 [] 0 0xFFFFFFFF)) = some (0, [], 0, 0) := by decide
theorem test_V6_rain_max :
    ev (one (.frag ([0xFF, 0x41] ++ List.replicate 13 0xFF ++ [0x33, 0x0E])) (st 2 [] 0 0)) =
      some ⟨1, 0x41, 17, false, 0x0E33, 0x0E33, 0b000001, false, true⟩ := by decide
theorem test_X2_no_flush :
    ev (one (.frag [0x20, 0x60, 0x00, 0x00, 0x01, 0x09, 0x0B, 0x0B, 0x1A, 0x00, 0xBB, 0x00]) (st 2 [] 0 0)) =
      some ⟨2, 0x60, 12, false, 0x00BB, 0x00BA, 0, false, false⟩ := by decide
theorem test_X3_battery :
    ev (one (.frag [0x40, 0x48, 0x04, 0x00, 0x15, 0x00, 0x00, 0x0A, 0x01, 0xAC, 0x00]) (st 2 [] 0 0)) =
      some ⟨1, 0x48, 11, false, 0x00AC, 0x00AC, 0b010000, false, true⟩ := by decide

/-! ### Decoders -/

/-- The decoded fields of a whole frame in one fragment. -/
def fieldsOf (frame : List Byte) : Option Decoded := fields (one (.frag frame) (st 2 [] 0 0))

theorem test_D1_rain :
    (fieldsOf [0x00, 0x41, 0x0A, 0x00, 0x05, 0x00, 0x64, 0x00, 0xE8, 0x03, 0x1E, 0x0C, 0x0F, 0x06, 0x18, 0xF6, 0x01]).map
      Decoded.rain = some ⟨10, 5, 100, 1000, 30, 12, 15, 6, 24⟩ := by decide
theorem test_D5_outdoor :
    (fieldsOf [0x00, 0x42, 0x01, 0xD7, 0x00, 0x2D, 0x5B, 0x00, 0x00, 0x00, 0xA2, 0x01]).map Decoded.tempHum =
      some ⟨1, 1, 215, false, 45, true, 91, false, false⟩ := by decide
theorem test_D6_extra :
    (fieldsOf [0x40, 0x42, 0x02, 0x35, 0x80, 0x50, 0x00, 0x00, 0x00, 0x00, 0x89, 0x01]).map Decoded.tempHum =
      some ⟨2, 2, 53, true, 80, false, 0, false, false⟩ := by decide
theorem test_D10_pressure :
    (fieldsOf [0x00, 0x46, 0xF5, 0x23, 0xFC, 0x03, 0x5D, 0x02]).map Decoded.pressure = some ⟨1020, 1013, 2, true⟩ := by
  decide
theorem test_D13_uv : (fieldsOf [0x00, 0x47, 0xFF, 0xFF, 0x45, 0x02]).map Decoded.uv = some ⟨255⟩ := by decide
theorem test_D15_wind :
    (fieldsOf [0x00, 0x48, 0x04, 0x00, 0x20, 0xF0, 0x00, 0x2E, 0x01, 0x8B, 0x01]).map Decoded.wind =
      some ⟨4, 32, 15, true, 302⟩ := by decide
theorem test_D17_no_chill :
    (fieldsOf [0x00, 0x48, 0x0F, 0x00, 0xFF, 0xFF, 0xFF, 0x00, 0x20, 0x74, 0x03]).map Decoded.wind =
      some ⟨15, 4095, 4095, false, 0⟩ := by decide
theorem test_D21_status :
    (fieldsOf [0x20, 0x60, 0x00, 0x00, 0x01, 0x09, 0x0B, 0x0B, 0x1A, 0x00, 0xBA, 0x00]).map Decoded.status =
      some ⟨1, 9, 11, 11, 26, true, true, false⟩ := by decide

/-- D2: 25 and 75 are ties, 6.35 and 19.05; away from zero 6.4 and 19.1, half to even 6.4 and 19.0. -/
theorem test_D2_ties :
    [Downstream.round1 .awayFromZero (25 * 127) 500, Downstream.round1 .awayFromZero (75 * 127) 500,
      Downstream.round1 .halfEven (25 * 127) 500, Downstream.round1 .halfEven (75 * 127) 500] = [64, 191, 64, 190] := by
  decide
/-- D18 and D20: −59/18 is −3.3, −320/18 is −17.8, 3775/18 is 209.7. -/
theorem test_D20_chill :
    [Downstream.round1 .awayFromZero (-59) 18, Downstream.round1 .awayFromZero (-320) 18,
      Downstream.round1 .awayFromZero 3775 18] = [-33, -178, 2097] := by decide

/-! ### Clock edges -/

/-- In sync, a UV frame on offer now, latency 3, and the host idle for some edges after it (T3). -/
def offering : State :=
  { st 2 [] 0 0 with
    inputs := ⟨false, true, fragOf [0x00, 0x47, 0x00, 0x05, 0x4C, 0x00]⟩ :: List.replicate 4 PortIn.idle, latChoice := [3] }

/-- `(in_ready, ev_valid, st_sync)` after some edges. -/
def seen (n : Nat) (s : State) : Option (Bool × Bool × BitVec 2) :=
  match runEdges n s with
  | .next t => some (t.inReady, t.evValidOut, t.ports.stSync)
  | .fault _ => none
  | .refused _ => none

theorem test_T3_busy : [seen 1 offering, seen 2 offering, seen 3 offering] = List.replicate 3 (some (false, false, 2)) := by
  decide
theorem test_T3_event : [seen 4 offering, seen 5 offering] = [some (true, true, 0), some (true, false, 0)] := by decide
/-- T4, T5: `rst` while a fragment is offered; nothing is accepted and the state is S_RST. -/
theorem test_T5_reset :
    seen 1 { offering with inputs := [⟨true, true, fragOf [0xFF]⟩] } = some (true, false, 0) := by decide

/-! ### Witnesses: states and operands that meet a statement's hypotheses -/

theorem good {f : Fragment} (h : f.malformed = false) : GoodFragment f := by
  simp only [Fragment.malformed, Bool.or_eq_false_iff, decide_eq_false_iff_not, Config.maxPayload] at h
  exact ⟨h.1, by omega⟩

theorem isMarker {p : Config.Params} {f : Fragment} (h : f.marker p = true) : IsMarker p f := by
  simpa [Fragment.marker, IsMarker, Config.syncMarker] using h

theorem noMarker {p : Config.Params} {f : Fragment} (h : f.marker p = false) : ¬ IsMarker p f := by
  intro hm
  have : f.marker p = true := by simpa [Fragment.marker, IsMarker, Config.syncMarker] using hm
  rw [h] at this
  exact Bool.noConfusion this

/-- In sync, with two bytes: the length is not known yet. -/
def two : State := st 2 [0x00, 0x42] 0 5
/-- In sync, with the eleven bytes of A10: one is missing. -/
def eleven : State := st 2 [0x00, 0x42, 0x01, 0xD7, 0x00, 0x2D, 0x5B, 0x00, 0x00, 0x00, 0xA2] 12 5

theorem st_inv {bytes : List Byte} {e : BitVec 5} {c : BitVec 32} (hl : bytes.length ≤ 20)
    (h : (e = 0 ∧ bytes.length ≤ 2) ∨ (e ≠ 0 ∧ 3 ≤ bytes.length ∧ bytes.length < e.toNat ∧
      lenTable (bytes.getD 1 0) = some e)) : FramingInv (st 2 bytes e c) :=
  framingInv_of_buffering (bytes := bytes)
    ⟨⟨rfl, by show (BitVec.ofNat 5 bytes.length).toNat = _; rw [BitVec.toNat_ofNat]; omega⟩, h⟩ rfl

theorem two_inv : FramingInv two := st_inv (by decide) (Or.inl (by decide))
theorem eleven_inv : FramingInv eleven := st_inv (by decide) (Or.inr (by decide))

theorem idle_inv : FramingInv (st 0 [] 0 0) :=
  ⟨by decide, fun _ => ⟨rfl, rfl⟩, fun _ => by decide, fun h => absurd rfl h, rfl, fun h => absurd rfl h⟩

theorem wit_malformed : (⟨true, 0, lanesOf []⟩ : Fragment).err = true ∧ 20 ≤ (⟨false, 20, lanesOf []⟩ : Fragment).count.toNat := by
  decide
theorem wit_idle : (st 0 [] 0 0).syncCnt = 0 ∧ GoodFragment (fragOf [0x12]) ∧
    ¬ IsMarker (st 0 [] 0 0).params (fragOf [0x12]) := ⟨rfl, good (by decide), noMarker (by decide)⟩
theorem wit_marker : GoodFragment (fragOf [0xFF]) ∧ IsMarker (st 0 [] 0 0).params (fragOf [0xFF]) ∧
    (st 0 [] 0 0).syncCnt = 0 ∧ (st 1 [] 0 0).syncCnt = 1 := ⟨good (by decide), isMarker (by decide), rfl, rfl⟩
theorem wit_falseStart : (st 1 [] 0 0).syncCnt = 1 ∧ GoodFragment (fragOf []) ∧
    ¬ IsMarker (st 1 [] 0 0).params (fragOf []) := ⟨rfl, good (by decide), noMarker (by decide)⟩
theorem wit_reserved : (st 3 [] 0 0).syncCnt = 3 ∧ GoodFragment (fragOf [0x00]) := ⟨rfl, good (by decide)⟩
theorem wit_empty : (fragOf []).count = 0 ∧ (fragOf []).err = false ∧ two.syncCnt = 2 := by decide

theorem wit_insync : FramingInv two ∧ GoodFragment (fragOf (List.replicate 19 0xFF)) ∧ two.syncCnt = 2 :=
  ⟨two_inv, good (by decide), rfl⟩
/-- No byte more; then one byte more, up to one below the length. -/
theorem wit_incomplete : FramingInv two ∧ (soFar (fragOf []) two).length ≤ 2 ∧
    lenTable ((soFar (fragOf (List.replicate 9 0)) two).getD 1 0) = some 12 ∧
    (soFar (fragOf (List.replicate 9 0)) two).length < (12 : BitVec 5).toNat := ⟨two_inv, by decide, by decide, by decide⟩
theorem wit_unknown : FramingInv (st 2 [0x00, 0x99] 0 0) ∧ 3 ≤ (soFar (fragOf [0x00]) (st 2 [0x00, 0x99] 0 0)).length ∧
    lenTable ((soFar (fragOf [0x00]) (st 2 [0x00, 0x99] 0 0)).getD 1 0) = none :=
  ⟨st_inv (by decide) (Or.inl (by decide)), by decide, by decide⟩
theorem wit_matching : FramingInv eleven ∧ Completes (fragOf [0x01]) eleven 12 ∧
    ¬ (surplusOf (fragOf [0x01]) eleven 12 = true ∧ eleven.params.overrunPolicy = .discard) ∧
    received (frameOf (fragOf [0x01]) eleven 12) = summed (frameOf (fragOf [0x01]) eleven 12) :=
  ⟨eleven_inv, ⟨by decide, by decide⟩, by decide, by decide⟩
theorem wit_mismatching : FramingInv eleven ∧ Completes (fragOf [0x02, 0xFF]) eleven 12 ∧
    ¬ (surplusOf (fragOf [0x02, 0xFF]) eleven 12 = true ∧ eleven.params.overrunPolicy = .discard) ∧
    received (frameOf (fragOf [0x02, 0xFF]) eleven 12) ≠ summed (frameOf (fragOf [0x02, 0xFF]) eleven 12) :=
  ⟨eleven_inv, ⟨by decide, by decide⟩, by decide, by decide⟩
theorem wit_overrun : FramingInv (discarding two) ∧ Completes (fragOf (List.replicate 11 0)) (discarding two) 12 ∧
    surplusOf (fragOf (List.replicate 11 0)) (discarding two) 12 = true ∧
    (discarding two).params.overrunPolicy = .discard :=
  ⟨⟨two_inv.syncLegal, two_inv.searching, two_inv.unknownLength, two_inv.knownLength, two_inv.written, two_inv.fromTable⟩,
    ⟨by decide, by decide⟩, by decide, by decide⟩

/-- A state whose record has this FRM_TYPE. -/
def typed (t : Byte) : State := { eleven with record := { EventRecord.zero with frmType := t } }

theorem wit_dispatch : (typed 0x41).record.frmType = 0x41 ∧ (typed 0x42).record.frmType = 0x42 ∧
    (typed 0x46).record.frmType = 0x46 ∧ (typed 0x47).record.frmType = 0x47 ∧ (typed 0x48).record.frmType = 0x48 ∧
    (typed 0x60).record.frmType = 0x60 ∧
    (∀ u ∈ ([0x41, 0x42, 0x46, 0x47, 0x48, 0x60] : List Byte), (typed 0x40).record.frmType ≠ u) ∧
    (typed 0x40).expLen ≠ 0 := by decide
theorem wit_lookup : (st 2 [1, 0x99, 3] 0 0).expLen = 0 ∧ (st 2 [1, 0x99, 3] 0 0).bufRead 0 = some 1 ∧
    (st 2 [1, 0x99, 3] 0 0).bufRead 1 = some 0x99 ∧ (st 2 [1, 0x99, 3] 0 0).bufRead 2 = some 3 := by decide
theorem wit_at_dispatch : eleven.expLen ≠ 0 ∧ FramingInv eleven := ⟨by decide, eleven_inv⟩
theorem wit_no_length : (0x40 : Byte) ∉ ([0x41, 0x42, 0x46, 0x47, 0x48, 0x60] : List Byte) := by decide
/-- BUF_LEN = 19, the last index there is. -/
theorem wit_append : (st 2 (List.replicate 19 0) 0 0).bufLen.toNat < 20 := by decide
theorem wit_unwritten : two.bufLen.toNat ≤ 2 ∧ two.expLen = 0 := by decide
theorem wit_sum : (List.replicate 17 (0xFF : Byte)).length ≤ 17 := by decide
/-- A UV frame whose received checksum is one above the largest sum, and one whose high byte is 0x0F. -/
theorem wit_largest :
    let f : List Byte := [0xFF, 0x47, 0xFF, 0xFF, 0x45, 0x03]
    let g : List Byte := [0xFF, 0x47, 0xFF, 0xFF, 0x45, 0x0F]
    f.length = 6 ∧ f.getD 1 0 = 0x47 ∧ 0x0344 < received f ∧ g.length = 6 ∧ g.getD 1 0 = 0x47 ∧
    0x0E < (g.getD (g.length - 1) 0).toNat := by decide

/-- `rst` at this edge, then a fragment on offer. -/
def resetting : State := { eleven with inputs := [⟨true, true, fragOf [0xFF]⟩, ⟨false, true, fragOf [0xFF]⟩] }
/-- A fragment is in flight, with this many edges left, and another kept on offer. -/
def busyFor (k : Nat) (f g : Fragment) : State :=
  { eleven with busy := true, pend := f, remaining := k, inputs := List.replicate (k + 1) ⟨false, true, g⟩ ++ [] }

theorem wit_reset_edge : resetting.portIn.rst = true := by decide
theorem wit_ports_after_reset : ∃ t, resetting.portIn.rst = true ∧ step resetting = .next t ∧ t.portIn.rst = false ∧
    t.portIn.valid = true := ⟨_, rfl, rfl, rfl, rfl⟩
theorem wit_accept : offering.portIn.rst = false ∧ offering.portIn.valid = true ∧ offering.busy = false ∧
    1 ≤ offering.params.latMax ∧ offering.offer = .none ∧
    (let s : State := { offering with offer := .released }
     s.offer = .released) ∧
    (let s : State := { offering with offer := .stable (fragOf [0x00, 0x47, 0x00, 0x05, 0x4C, 0x00]) }
     s.offer = .stable s.portIn.frag) := by decide
theorem wit_busy : (busyFor 2 (fragOf [1]) (fragOf [2])).portIn.rst = false ∧
    (busyFor 2 (fragOf [1]) (fragOf [2])).busy = true ∧ 1 < (busyFor 2 (fragOf [1]) (fragOf [2])).remaining := by decide
theorem wit_step_runs : resetting.portIn.rst = true ∧ (busyFor 1 (fragOf [1]) (fragOf [2])).portIn.rst = false ∧
    (busyFor 1 (fragOf [1]) (fragOf [2])).busy = true ∧ (busyFor 1 (fragOf [1]) (fragOf [2])).remaining ≤ 1 := by decide
/-- The completing edge of A10 answers a next state with an event of code 1, one of V5 an event of code 2, a malformed fragment one
of code 4, surplus bytes under DISCARD one of code 5, and an edge without a transaction no event. -/
theorem wit_events :
    (∃ t, step (busyFor 1 (fragOf [0x01]) (fragOf [2])) = .next t ∧ t.evValid = true ∧ t.record.evCode = 1) ∧
    (∃ t, step (busyFor 1 (fragOf [0x02]) (fragOf [2])) = .next t ∧ t.evValid = true ∧ t.record.evCode = 2) ∧
    (∃ t, step (busyFor 1 ⟨true, 0, lanesOf []⟩ (fragOf [2])) = .next t ∧ t.evValid = true ∧ t.record.evCode = 4) ∧
    (∃ t, step (discarding (busyFor 1 (fragOf [0x01, 0x02]) (fragOf [2]))) = .next t ∧ t.evValid = true ∧
      t.record.evCode = 5) ∧
    (∃ t, step offering = .next t ∧ t.evValid = false) :=
  ⟨⟨_, rfl, rfl, rfl⟩, ⟨_, rfl, rfl, rfl⟩, ⟨_, rfl, rfl, rfl⟩, ⟨_, rfl, rfl, rfl⟩, ⟨_, rfl, rfl⟩⟩
theorem wit_idle_block : eleven.busy = false ∧ (∀ p ∈ eleven.inputs.take 4, p.rst = false ∧ p.valid = false) := by decide
/-- Each of the three: nothing on offer before, `in_valid` left high with other lanes and then lowered, one offer kept. -/
theorem wit_stable_offer :
    let s := busyFor 3 (fragOf [0x01]) (fragOf [0xFF])
    let held : List PortIn := [⟨false, true, fragOf [0x55]⟩]
    let low : List PortIn := [PortIn.idle]
    let b : State := { s with
      offer := .released, inputs := held ++ low ++ List.replicate 2 ⟨false, true, fragOf [0xFF]⟩ ++ [] }
    let c : State := { s with offer := .stable (fragOf [0xFF]) }
    (s.busy = true ∧ 1 ≤ s.remaining ∧ s.offer = .none ∧ 0 + 0 + 3 = s.remaining ∧
      s.inputs = [] ++ [] ++ List.replicate (3 + 1) ⟨false, true, fragOf [0xFF]⟩ ++ []) ∧
    (b.offer = .released ∧ (∀ p ∈ held, p.rst = false ∧ p.valid = true) ∧ (∀ p ∈ low, p.rst = false ∧ p.valid = false) ∧
      held.length + low.length + 1 = b.remaining ∧
      b.inputs = held ++ low ++ List.replicate (1 + 1) ⟨false, true, fragOf [0xFF]⟩ ++ []) ∧
    c.offer = .stable (fragOf [0xFF]) ∧
    (∃ u, transaction (.frag s.pend) s = .next u) ∧ (∃ u, transaction (.frag b.pend) b = .next u) ∧
    ∃ u, transaction (.frag c.pend) c = .next u :=
  ⟨⟨rfl, by decide, rfl, rfl, rfl⟩, ⟨rfl, by decide, by decide, rfl, rfl⟩, rfl, ⟨_, rfl⟩, ⟨_, rfl⟩, _, rfl⟩
theorem wit_ports : resetting.portIn.rst = true ∧ offering.portIn.rst = false ∧
    ({ offering with evValid := true } : State).evValid = true := by decide
theorem wit_undeclared :
    let f : Fragment := ⟨false, 1, lanesOf [0xFF, 0xAA]⟩
    let g : Fragment := ⟨false, 1, lanesOf [0xFF, 0xBB]⟩
    eleven.params.gateMarkerByCount = true ∧ f.err = g.err ∧ f.count = g.count ∧ f ≠ g ∧
    (∀ i : Fin 19, i.val < f.count.toNat → f.lanes[i] = g.lanes[i]) := by decide
/-- The other two ways: the gate is off and a byte is declared, or none is and lane 0 agrees. -/
theorem wit_undeclared_ungated :
    let f : Fragment := ⟨false, 0, lanesOf [0xFF, 0xAA]⟩
    let g : Fragment := ⟨false, 0, lanesOf [0xFF, 0xBB]⟩
    (ungated eleven).params.gateMarkerByCount = false ∧ 1 ≤ (⟨false, 1, lanesOf [0xFF, 0xAA]⟩ : Fragment).count.toNat ∧
    f.lanes[0] = g.lanes[0] ∧ f.err = g.err ∧ f.count = g.count ∧ f ≠ g ∧
    (∀ i : Fin 19, i.val < f.count.toNat → f.lanes[i] = g.lanes[i]) := by decide

/-- The invariant of a busy state, and a step from it. -/
theorem wit_inv : Inv (busyFor 2 (fragOf [1]) (fragOf [2])) ∧
    ∃ t, step (busyFor 2 (fragOf [1]) (fragOf [2])) = .next t :=
  ⟨⟨⟨eleven_inv.syncLegal, eleven_inv.searching, eleven_inv.unknownLength, eleven_inv.knownLength, eleven_inv.written,
      eleven_inv.fromTable⟩, fun _ => by decide, by decide, (fun h => nomatch h)⟩, _, rfl⟩
/-- The invariant of a state about to complete a frame, and the event the step reports. -/
theorem wit_feed : Inv (busyFor 1 (fragOf [0x01]) (fragOf [2])) ∧
    ∃ t, step (busyFor 1 (fragOf [0x01]) (fragOf [2])) = .next t ∧ t.evValid = true :=
  ⟨⟨⟨eleven_inv.syncLegal, eleven_inv.searching, eleven_inv.unknownLength, eleven_inv.knownLength, eleven_inv.written,
      eleven_inv.fromTable⟩, fun _ => by decide, by decide, (fun h => nomatch h)⟩, _, rfl, rfl⟩
theorem wit_clocked : offering.busy = false ∧ offering.portIn.valid = true ∧ offering.latency = 3 ∧
    (∀ p ∈ offering.inputs.take (offering.latency + 1), p.rst = false) ∧
    ∃ u, transaction (.frag offering.captured) offering = .next u := ⟨rfl, rfl, rfl, by decide, _, rfl⟩
/-- Two markers with a malformed fragment between them, the first part of a frame, then its end. -/
theorem wit_two_markers :
    let fs : List Fragment := [fragOf [0x12], fragOf [0xFF], ⟨true, 0, lanesOf []⟩, fragOf [0xFF], fragOf [0x00, 0x47, 0x00]]
    (st 0 [] 0 0).syncCnt = 0 ∧ ∃ u v, runOps (fs.map .frag) (st 0 [] 0 0) = .next u ∧
      transaction (.frag (fragOf [0x05, 0x4C, 0x00])) u = .next v ∧ v.evValid = true ∧ v.record.evCode = 1 :=
  ⟨rfl, _, _, rfl, rfl, rfl, rfl⟩
/-- The same frame split over two fragments with a malformed one between them. -/
theorem wit_fragmentation :
    let fs : List Fragment := [fragOf [0x00, 0x47, 0x00], ⟨true, 0, lanesOf []⟩]
    let bytes := ((fs.filter fun f => !f.malformed).map Fragment.declared).flatten
    let g := fragOf [0x05, 0x4C, 0x00, 0xAA]
    FreshInSync (st 2 [] 0 0) ∧ GoodFragment g ∧ lenTable ((bytes ++ g.declared).getD 1 0) = some 6 ∧
    bytes.length < (6 : BitVec 5).toNat ∧ (6 : BitVec 5).toNat ≤ (bytes ++ g.declared).length ∧
    (st 2 [] 0 0).params.overrunPolicy = .truncate :=
  ⟨⟨rfl, rfl, rfl, rfl⟩, good (by decide), by decide, by decide, by decide, rfl⟩
/-- The other two ends of that frame: surplus bytes under DISCARD, and a checksum that differs. -/
theorem wit_fragmentation_ends :
    let bytes : List Byte := [0x00, 0x47, 0x00]
    let good := bytes ++ (fragOf [0x05, 0x4C, 0x00, 0xAA]).declared
    let bad := bytes ++ (fragOf [0x05, 0x4C, 0x01]).declared
    FreshInSync (discarding (st 2 [] 0 0)) ∧ (discarding (st 2 [] 0 0)).params.overrunPolicy = .discard ∧
    (6 : BitVec 5).toNat < good.length ∧ received (good.take 6) = summed (good.take 6) ∧
    received (bad.take 6) ≠ summed (bad.take 6) :=
  ⟨⟨rfl, rfl, rfl, rfl⟩, rfl, by decide, by decide, by decide⟩
theorem wit_wellFormed :
    Instr.wellFormed Config.defaultParams (.fragMalformed ⟨false, 31, lanesOf [0xAA]⟩) = true ∧
    Instr.wellFormed Config.defaultParams (.fragMarker (fragOf [0xFF])) = true ∧
    Instr.wellFormed Config.defaultParams (.fragIdle (fragOf [])) = true ∧
    Instr.wellFormed Config.defaultParams (.typeUnknown 0x43) = true := by decide
theorem wit_fresh : FreshInSync (st 2 [] 0 9) := ⟨rfl, rfl, rfl, rfl⟩
theorem wit_chill : highNibbleByte 2 0x105 ≠ 0x20 := by decide
theorem wit_ties : 0 < 500 ∧ 25 % 50 = 25 := by decide

/-- What is in PEND after some edges. -/
def pendAfter (n : Nat) (s : State) : Option Fragment :=
  match runEdges n s with
  | .next t => some t.pend
  | .fault _ => none
  | .refused _ => none

/-- R234 (b): `in_valid` is still 1 at the edge after the accepting one, then falls, then another fragment is raised and
kept: the lanes of that fragment are captured. -/
theorem test_released_offer :
    pendAfter 5 { offering with
      inputs := [⟨false, true, fragOf [0x01]⟩, ⟨false, true, fragOf [0x01]⟩, PortIn.idle, ⟨false, true, fragOf [0xFF]⟩,
        ⟨false, true, fragOf [0xFF]⟩], latChoice := [3] } = some (fragOf [0xFF]) := by decide

/-- An offer is standing, the host resets, then offers another fragment: it is accepted as driven (the model's choice,
log 24). -/
theorem test_reset_ends_offer :
    let s : State := { st 0 [] 0 0 with
      offer := .stable (fragOf [0x01]), inputs := [⟨true, true, fragOf [0x01]⟩, ⟨false, true, fragOf [0xFF]⟩] }
    pendAfter 2 s = some (fragOf [0xFF]) := by decide

end Sys2Proof.Tests
end

section
/-! PROOFS. The statements of 10_state.md: the reset values (R36) and the one-cycle event (R31). -/

namespace Sys2Proof.Proofs

open Sys2Proof.Machine Sys2Proof.Claims

/-! ### The instruction a fragment's key selects -/

theorem decodeOp_frag_malformed {f : Fragment} (p : Config.Params) (c : BitVec 2) (hm : f.malformed = true) :
    decodeOp p c (.frag f) = .fragMalformed f := by
  simp [decodeOp, decodeKeyed, opRow_keyOf_frag, hm, OpRow.instr, Op.fragment]

theorem decodeOp_frag_insync {f : Fragment} (p : Config.Params) {c : BitVec 2} (hm : f.malformed = false) (hc : c = 2) :
    decodeOp p c (.frag f) = .fragInsync f := by
  simp [decodeOp, decodeKeyed, opRow_keyOf_frag, hm, hc, OpRow.instr, Op.fragment]

/-! ### Where EV_VALID rises -/

/-- An edge that completes no transaction ends the event cycle (R31). -/
theorem quietEdge_evValid (s : State) : s.quietEdge.evValid = false := by
  rcases quietEdge_cases s with ⟨-, h⟩ | ⟨-, -, h⟩ | ⟨-, -, h⟩ <;> simp [h]

/-- Only a malformed fragment and the end of a frame emit an event; the other operations keep EV_VALID. -/
theorem transact_frag_event {f : Fragment} {s u : State} (h : transact (.frag f) s = .next u)
    (h0 : s.evValid = false) (h1 : u.evValid = true) :
    f.malformed = true ∨ (f.malformed = false ∧ s.syncCnt = 2 ∧ ∃ c, Reported s u c) := by
  have differ : u.evValid ≠ s.evValid := by simp [h0, h1]
  rcases transact_frag_cases h with ⟨hm, -⟩ | ⟨hm, hc, hquiet | hrep⟩ | ⟨-, -, -, rfl⟩ | ⟨-, -, -, rfl⟩ | ⟨-, -, -, rfl⟩
  · exact .inl hm
  · exact absurd hquiet.evValid differ
  · exact .inr ⟨hm, hc, hrep⟩
  · exact absurd rfl differ
  · exact absurd rfl differ
  · exact absurd rfl differ

/-- EV_VALID is 1 after an edge exactly when a transaction completed at it and set EV_VALID. -/
theorem step_evValid_iff {s t : State} (h : step s = .next t) :
    t.evValid = true ↔ (s.portIn.rst = false ∧ s.busy = true ∧ s.remaining ≤ 1 ∧
      ∃ u, transact (.frag s.pend) s.beginEdge = .next u ∧ u.evValid = true) := by
  rcases step_cases h with ⟨hr, rfl⟩ | ⟨hr, hb, hk, u, hu, rfl⟩ | ⟨-, hn, rfl⟩
  · simp [hr]
  · simp [hr, hb, hk, hu]
  · have hnot : ¬ (s.busy = true ∧ s.remaining ≤ 1) := by
      rintro ⟨hb, hk⟩
      rcases hn with hn | hn
      · simp [hn] at hb
      · omega
    rw [quietEdge_evValid]
    exact ⟨nofun, fun ⟨_, hb, hk, _⟩ => absurd ⟨hb, hk⟩ hnot⟩

/-- An event after an edge comes from a malformed fragment, or from the in-sync fragment that ends its frame, and then the
framing group is reset. -/
theorem step_event_source {s t : State} (h : step s = .next t) (he : t.evValid = true) :
    decodeOp s.params s.syncCnt (.frag s.pend) = .fragMalformed s.pend ∨
      (decodeOp s.params s.syncCnt (.frag s.pend) = .fragInsync s.pend ∧ t.syncCnt = 0) := by
  rcases step_cases h with ⟨-, rfl⟩ | ⟨-, -, -, u, hu, rfl⟩ | ⟨-, -, rfl⟩
  · simp at he
  · rcases transact_frag_event hu rfl he with hm | ⟨hm, hc, _, hrep⟩
    · exact .inl (decodeOp_frag_malformed _ _ hm)
    · exact .inr ⟨decodeOp_frag_insync _ hm hc, hrep.syncCnt⟩
  · simp [quietEdge_evValid] at he

/-- Settles O30: EV_VALID rises only where a completing transaction sets it (`step_evValid_iff`), and the two operations
that set it are named (`step_event_source`). -/
theorem eventValidForOneCycle : Obligations.EventValidForOneCycle := by
  intro s t h
  refine ⟨step_evValid_iff h, fun he => ?_⟩
  rcases step_event_source h he with hd | ⟨hd, hsync⟩
  · simp [hd]
  · simp [hd, hsync]

/-! ### RESET -/

theorem exec_reset (s : State) : exec .reset s = .next s.powerReset := rfl

theorem powerReset_framingCleared (s : State) : FramingCleared s.powerReset :=
  ⟨rfl, rfl, rfl, s.powerReset_bufRead⟩

theorem reset_framingCleared : FramingCleared State.reset :=
  ⟨rfl, rfl, rfl, fun a => by simp [State.bufRead, State.reset]⟩

/-- Settles O1: RESET answers `powerReset`, whose fields are R36's values. -/
theorem resetGivesTheResetValues : Obligations.ResetGivesTheResetValues :=
  ⟨fun s => ⟨s.powerReset, exec_reset s, powerReset_framingCleared s, rfl, rfl, rfl, rfl, rfl⟩,
   reset_framingCleared, rfl, rfl, rfl⟩

end Sys2Proof.Proofs
end

section
/-! PROOFS. The statements of 30_encoding.md: the marker and malformed tests (R73, R74) and LEN_TABLE (R78). -/

namespace Sys2Proof.Proofs

open Sys2Proof.Machine Sys2Proof.Claims

/-! ### The two tests on a fragment -/

theorem marker_iff_isMarker (p : Config.Params) (f : Fragment) : f.marker p = true ↔ IsMarker p f := by
  simp [Fragment.marker, IsMarker, Config.syncMarker]

theorem malformed_iff (f : Fragment) : f.malformed = true ↔ (f.err = true ∨ 19 < f.count.toNat) := by
  simp [Fragment.malformed, Config.maxPayload]

/-- Settles O8: each Boolean test says the proposition R73 or R74 states. -/
theorem markerAndMalformedTests : Obligations.MarkerAndMalformedTests :=
  fun p f => ⟨marker_iff_isMarker p f, malformed_iff f⟩

/-! ### The length table -/

/-- A byte that is none of the six patterns falls through to the lowest-priority row (30_encoding.md R90). -/
theorem typeRow_of_not_mem {t : Byte} (h : t ∉ ([0x41, 0x42, 0x46, 0x47, 0x48, 0x60] : List Byte)) :
    typeRow t = .unknown t := by
  simp only [List.mem_cons, List.not_mem_nil, or_false, not_or] at h
  obtain ⟨hrain, htempHum, hpressure, huv, hwind, hstatus⟩ := h
  simp only [typeRow, if_neg hrain, if_neg htempHum, if_neg hpressure, if_neg huv, if_neg hwind, if_neg hstatus]

/-- Settles O20: the six rows are evaluated; every other byte is of the unknown row, which has no length and no select
bit. -/
theorem lengthTableOfTheSixTypes : Obligations.LengthTableOfTheSixTypes := by
  refine ⟨by decide, fun t ht => ?_⟩
  have hrow : typeRow t = .unknown t := typeRow_of_not_mem ht
  exact ⟨congrArg TypeRow.length hrow, congrArg selOf hrow⟩

end Sys2Proof.Proofs
end

section
/-! PROOFS. The statements of 40_assembler.md: the chain of operations (R100), the operations outside the byte loop (R102,
R103, R105, R117) and the discard of an unknown type (R109). -/

namespace Sys2Proof.Proofs

open Sys2Proof.Machine Sys2Proof.Claims

/-! ### The chain of R100 -/

theorem syncCnt_values (c : BitVec 2) : c = 0 ∨ c = 1 ∨ c = 2 ∨ c = 3 := by
  revert c; decide

/-- The instruction of a fragment's key. `opRow_keyOf_frag` tests for SYNC_CNT = 3 before the marker, R100 after it. -/
theorem decodeOp_frag (p : Config.Params) (c : BitVec 2) (f : Fragment) :
    decodeOp p c (.frag f) =
      if f.malformed then .fragMalformed f
      else if c = 2 then .fragInsync f
      else if c = 1 ∧ f.marker p = false then .fragFalseStart f
      else if c.toNat ≤ 1 ∧ f.marker p = true then .fragMarker f
      else if c = 0 then .fragIdle f
      else .syncReserved := by
  rw [decodeOp, decodeKeyed, opRow_keyOf_frag]
  cases f.malformed with
  | true => rfl
  | false =>
    obtain rfl | rfl | rfl | rfl := syncCnt_values c
    · cases f.marker p <;> rfl
    · cases f.marker p <;> rfl
    · rfl
    · cases f.marker p <;> rfl

/-- Settles O7: `transact` runs the instruction that `decodeOp` selects, and `decodeOp_frag` is R100's chain. -/
theorem transactionFollowsTheChain : Obligations.TransactionFollowsTheChain := by
  refine fun s => ⟨by rw [transact, decodeOp_rst], fun f => ?_⟩
  rw [transact, decodeOp_frag]
  split_ifs <;> rfl

/-! ### Single arms of the chain -/

theorem goodFragment_iff (f : Fragment) : GoodFragment f ↔ f.malformed = false := by
  rw [← Bool.not_eq_true, malformed_iff, not_or, Bool.not_eq_true, Nat.not_lt, GoodFragment]

theorem not_isMarker_iff (p : Config.Params) (f : Fragment) : ¬ IsMarker p f ↔ f.marker p = false := by
  rw [← marker_iff_isMarker, Bool.not_eq_true]

/-- For a well-formed fragment that is no marker SYNC_CNT alone selects the operation. -/
theorem decodeOp_frag_noMarker {p : Config.Params} {c : BitVec 2} {f : Fragment} (hgood : GoodFragment f)
    (hk : ¬ IsMarker p f) :
    decodeOp p c (.frag f) =
      if c = 2 then .fragInsync f else if c = 1 then .fragFalseStart f else if c = 0 then .fragIdle f
      else .syncReserved := by
  rw [goodFragment_iff] at hgood
  rw [not_isMarker_iff] at hk
  simp [decodeOp_frag, hgood, hk]

theorem transact_of_decodeOp {op : Op} {s : State} {i : Instr} (h : decodeOp s.params s.syncCnt op = i) :
    transact op s = exec i s := by
  rw [transact, h]

/-- Settles O2: the malformed test comes first in the chain, and FRAG_MALFORMED only emits. -/
theorem malformedFragmentIsReportedAndTransparent : Obligations.MalformedFragmentIsReportedAndTransparent := by
  refine fun f s => ⟨rfl, fun h => transact_of_decodeOp ?_⟩
  have hm : f.malformed = true := (malformed_iff f).mpr h
  exact decodeOp_frag_malformed _ _ hm

/-- Settles O3: at SYNC_CNT = 0 a fragment that is no marker fails every test before FRAG_IDLE's. -/
theorem idleFragmentHasNoEffect : Obligations.IdleFragmentHasNoEffect := by
  refine fun f s => ⟨rfl, fun hc hgood hk => transact_of_decodeOp ?_⟩
  rw [decodeOp_frag_noMarker hgood hk, hc]
  rfl

/-- Settles O5: at SYNC_CNT = 1 a fragment that is no marker is selected by the false-start test. -/
theorem falseStartClearsTheCount : Obligations.FalseStartClearsTheCount := by
  refine fun f s => ⟨rfl, fun hc hgood hk => transact_of_decodeOp ?_⟩
  rw [decodeOp_frag_noMarker hgood hk, hc]
  rfl

theorem exec_syncReserved (s : State) : exec .syncReserved s = .fault .syncUnreachable := rfl

/-- Settles O6: at SYNC_CNT = 3 a well-formed fragment, marker or not, falls through to the end of the chain. -/
theorem reservedSyncCountFaults : Obligations.ReservedSyncCountFaults := by
  refine ⟨exec_syncReserved, fun f s hc hgood => ?_⟩
  rw [goodFragment_iff] at hgood
  have hop : decodeOp s.params s.syncCnt (.frag f) = .syncReserved := by simp [decodeOp_frag, hc, hgood]
  rw [transact_of_decodeOp hop, exec_syncReserved]

/-! ### The discard of an unknown type -/

/-- An event's recovery clears the framing group (60_exceptions.md R206). -/
theorem frameReset_emit_framingCleared (s : State) (r : EventRecord) : FramingCleared (s.frameReset.emit r) :=
  ⟨rfl, rfl, rfl, s.frameReset_bufRead⟩

theorem frameReset_emit_sameRest (s : State) (r : EventRecord) : SameRest s (s.frameReset.emit r) :=
  ⟨rfl, rfl, rfl, rfl, rfl, rfl, rfl, rfl⟩

/-- FRM_DATA filled by `frmDataOf` shows the bytes it was given, where FRM_LEN counts them. -/
theorem carriesBytes_of_frmDataOf {r : EventRecord} {bytes : List Byte} (hlen : r.frmLen.toNat = bytes.length)
    (hdata : r.frmData = frmDataOf bytes) : CarriesBytes r bytes :=
  ⟨hlen, fun j => by rw [hdata]; exact frmDataOf_getElem bytes j.isLt⟩

theorem exec_fragInsync_unknown {f : Fragment} {s : State} (hinv : FramingInv s) (hlen : 3 ≤ (soFar f s).length)
    (ht : lenTable ((soFar f s).getD 1 0) = none) :
    exec (.fragInsync f) s =
      .next (s.frameReset.emit (recUnknownType ((soFar f s).getD 1 0) ((soFar f s).take 3))) :=
  (execFragInsync_eq f hinv).trans (congrArg _ (insyncOutcome_unknown s hlen ht))

/-- Settles O12: the outcome is a frame reset that emits the record of R150, whose FRM_DATA are the first three bytes. -/
theorem unknownTypeDiscardsTheFrame : Obligations.UnknownTypeDiscardsTheFrame := by
  intro f s hinv hlen ht
  have hthree : ((soFar f s).take 3).length = 3 := List.length_take_of_le hlen
  exact ⟨_, exec_fragInsync_unknown hinv hlen ht, frameReset_emit_framingCleared s _, rfl,
    frameReset_emit_sameRest s _, rfl, rfl, rfl, rfl, carriesBytes_of_frmDataOf hthree.symm rfl,
    rfl, rfl, rfl, rfl, rfl⟩

end Sys2Proof.Proofs
end

section
/-! PROOFS. The statements of 42_dispatch.md: the type rows (R140 to R146), the events of a complete frame (R148, R149, R152)
and the battery feed (R153). -/

namespace Sys2Proof.Proofs

open Sys2Proof.Machine Sys2Proof.Claims

/-! ### Complete frames and their checksums -/

/-- A frame as COMPLETE copies it out: as long as LEN_TABLE says of its type byte (40_assembler.md R110). -/
structure TableFrame (frame : List Byte) : Prop where
  table : lenTable (frame.getD 1 0) = some (BitVec.ofNat 5 frame.length)
  short : frame.length ≤ 17

theorem tableFrame_take {all : List Byte} {n : BitVec 5} (ht : lenTable (all.getD 1 0) = some n)
    (hl : n.toNat ≤ all.length) : TableFrame (all.take n.toNat) := by
  have hbounds := legalLen_bounds (legalLen_of_lenTable ht)
  have hlen : (all.take n.toNat).length = n.toNat := List.length_take_of_le hl
  have htype : (all.take n.toNat).getD 1 0 = all.getD 1 0 := by
    simp only [List.getD_eq_getElem?_getD, List.getElem?_take, if_pos (show 1 < n.toNat by omega)]
  exact ⟨by rw [htype, ht, hlen, BitVec.ofNat_toNat, BitVec.setWidth_eq], by omega⟩

theorem tableFrame_frameOf {f : Fragment} {s : State} {n : BitVec 5} (hc : Completes f s n) :
    TableFrame (frameOf f s n) :=
  tableFrame_take hc.1 hc.2

theorem TableFrame.frmLen_toNat {frame : List Byte} (h : TableFrame frame) :
    (BitVec.ofNat 5 frame.length).toNat = frame.length :=
  BitVec.toNat_ofNat _ _ ▸ Nat.mod_eq_of_lt (Nat.lt_of_le_of_lt h.short (by decide))

/-- A record that shows a frame's length and bytes carries that frame, as R30's statement has it. -/
theorem TableFrame.carriesBytes {frame : List Byte} (h : TableFrame frame) {r : EventRecord}
    (hlen : r.frmLen = BitVec.ofNat 5 frame.length) (hdata : r.frmData = frmDataOf frame) : CarriesBytes r frame :=
  carriesBytes_of_frmDataOf (by rw [hlen, h.frmLen_toNat]) hdata

/-- The same, as the record's invariant has it. -/
theorem TableFrame.carriedFrame_eq {frame : List Byte} (h : TableFrame frame) {r : EventRecord}
    (hlen : r.frmLen = BitVec.ofNat 5 frame.length) (hdata : r.frmData = frmDataOf frame) :
    carriedFrame r = frame := by
  have hpad : (frmDataOf frame).toList = (frame ++ List.replicate 17 0).take 17 := rfl
  rw [carriedFrame, hlen, hdata, h.frmLen_toNat, hpad, List.take_take, Nat.min_eq_left h.short, List.take_left]

theorem rxChecksum_toNat (frame : List Byte) : (rxChecksum frame).toNat = received frame :=
  pair16_toNat _ _

theorem byteSum_eq_sum (l : List Byte) : byteSum l = (l.map BitVec.toNat).sum := by
  induction l with
  | nil => rfl
  | cons b l ih => rw [byteSum, ih, List.map_cons, List.sum_cons]

/-- A frame is too short for its sum to reach the modulus (41_validator.md R131). -/
theorem calcChecksum_toNat {frame : List Byte} (h : frame.length ≤ 17) :
    (calcChecksum frame).toNat = summed frame := by
  have hsum : byteSum (frame.take (frame.length - 2)) < 65536 := by
    have hle := byteSum_le (frame.take (frame.length - 2))
    have hlen := List.length_take_le' (frame.length - 2) frame
    omega
  rw [calcChecksum, Config.csumMod, BitVec.toNat_ofNat, Nat.mod_mod, Nat.mod_eq_of_lt hsum, byteSum_eq_sum, summed]

theorem TableFrame.checksums_match_iff {frame : List Byte} (h : TableFrame frame) :
    rxChecksum frame = calcChecksum frame ↔ received frame = summed frame := by
  rw [← BitVec.toNat_inj, rxChecksum_toNat, calcChecksum_toNat h.short]

/-! ### The outcome of a complete frame -/

theorem exec_fragInsync_complete {f : Fragment} {s : State} {n : BitVec 5} (hinv : FramingInv s)
    (hc : Completes f s n) :
    exec (.fragInsync f) s = .next (frameOutcome (frameOf f s n) (surplusOf f s n) s) :=
  (execFragInsync_eq f hinv).trans (congrArg _ (insyncOutcome_complete s hc.1 hc.2))

/-- The record of FRAME_OK once DISPATCH has filled its fields (R140, R148). -/
def recDispatched (frame : List Byte) (surplus : Bool) : EventRecord :=
  { recFrameOk frame surplus with
    frmSel := selOf (typeRow (frame.getD 1 0)), flush := decide (frame.getD 1 0 = 0x60),
    batLow := batteryLow (frmDataOf frame)[0] }

/-- The policy test of COMPLETE: the frame is discarded (40_assembler.md R110). -/
theorem discards_iff (surplus : Bool) (p : Config.Params) :
    (surplus && p.overrunPolicy == .discard) = true ↔ surplus = true ∧ p.overrunPolicy = .discard := by
  rw [Bool.and_eq_true, beq_iff_eq]

theorem frameOutcome_of_discard (frame : List Byte) {surplus : Bool} {s : State}
    (hd : surplus = true ∧ s.params.overrunPolicy = .discard) :
    frameOutcome frame surplus s = s.frameReset.emit (recOverrun frame) := by
  rw [frameOutcome, if_pos ((discards_iff surplus s.params).mpr hd)]

theorem frameOutcome_of_match {frame : List Byte} {surplus : Bool} {s : State}
    (hd : ¬ (surplus = true ∧ s.params.overrunPolicy = .discard)) (hsum : rxChecksum frame = calcChecksum frame) :
    frameOutcome frame surplus s = s.frameReset.emit (recDispatched frame surplus) := by
  rw [frameOutcome, if_neg (mt (discards_iff surplus s.params).mp hd), if_pos hsum]
  rfl

theorem frameOutcome_of_mismatch {frame : List Byte} {surplus : Bool} {s : State}
    (hd : ¬ (surplus = true ∧ s.params.overrunPolicy = .discard)) (hsum : rxChecksum frame ≠ calcChecksum frame) :
    frameOutcome frame surplus s = s.bumpCsumErr.frameReset.emit (recCsumErr frame surplus) := by
  rw [frameOutcome, if_neg (mt (discards_iff surplus s.params).mp hd), if_neg hsum]
  rfl

/-- Settles O13: the outcome is a frame reset that emits FRAME_OK's record with DISPATCH's fields; over frames this short the
two checksums match as words exactly when they match as numbers. -/
theorem matchingFrameIsDispatched : Obligations.MatchingFrameIsDispatched := by
  intro f s n hinv hc hd hsum
  have hframe := tableFrame_frameOf hc
  have hmatch := hframe.checksums_match_iff.mpr hsum
  have hout := (exec_fragInsync_complete hinv hc).trans (congrArg _ (frameOutcome_of_match hd hmatch))
  exact ⟨_, hout, frameReset_emit_framingCleared s _, rfl, frameReset_emit_sameRest s _, rfl, rfl, rfl, rfl,
    List.length_take_of_le hc.2, hframe.carriesBytes rfl rfl, rxChecksum_toNat _, hmatch.symm, rfl, rfl,
    congrArg batteryLow (frmDataOf_getElem _ (by decide))⟩

/-- Settles O14: the outcome is a frame reset that counts and emits CSUM_ERR's record. -/
theorem mismatchingFrameIsCounted : Obligations.MismatchingFrameIsCounted := by
  intro f s n hinv hc hd hsum
  have hframe := tableFrame_frameOf hc
  have hdiffer := mt hframe.checksums_match_iff.mp hsum
  have hout := (exec_fragInsync_complete hinv hc).trans (congrArg _ (frameOutcome_of_mismatch hd hdiffer))
  exact ⟨_, hout, frameReset_emit_framingCleared s.bumpCsumErr _, rfl, frameReset_emit_sameRest s.bumpCsumErr _, rfl, rfl,
    rfl, rfl, hframe.carriesBytes rfl rfl, rxChecksum_toNat _, calcChecksum_toNat hframe.short, rfl, rfl, rfl⟩

/-- Settles O15: the outcome is a frame reset that emits OVERRUN's record; nothing is validated. -/
theorem surplusUnderDiscardOverruns : Obligations.SurplusUnderDiscardOverruns := by
  intro f s n hinv hc hsurplus hpolicy
  have hframe := tableFrame_frameOf hc
  have hout := (exec_fragInsync_complete hinv hc).trans (congrArg _ (frameOutcome_of_discard _ ⟨hsurplus, hpolicy⟩))
  exact ⟨_, hout, frameReset_emit_framingCleared s _, rfl, frameReset_emit_sameRest s _, rfl, rfl, rfl, rfl,
    hframe.carriesBytes rfl rfl, rfl, rfl, rfl, rfl, rfl⟩

/-! ### The type rows -/

/-- The decoded outputs when only a row's own group is open (43_field_decode.md R175). -/
def decodedBy : TypeRow → Vector Byte 17 → Decoded
  | .rain, d => ⟨decRain d, .zero, .zero, .zero, .zero, .zero⟩
  | .tempHum, d => ⟨.zero, decTempHum d, .zero, .zero, .zero, .zero⟩
  | .pressure, d => ⟨.zero, .zero, decPressure d, .zero, .zero, .zero⟩
  | .uv, d => ⟨.zero, .zero, .zero, decUv d, .zero, .zero⟩
  | .wind, d => ⟨.zero, .zero, .zero, .zero, decWind d, .zero⟩
  | .status, d => ⟨.zero, .zero, .zero, .zero, .zero, decStatus d⟩
  | .unknown _, _ => ⟨.zero, .zero, .zero, .zero, .zero, .zero⟩

/-- A row's select bit opens its own decoder and no other. -/
theorem decoded_of_selOf {r : EventRecord} {row : TypeRow} (h : r.frmSel = selOf row) :
    decoded r = decodedBy row r.frmData := by
  unfold decoded
  rw [h]
  cases row with
  | unknown t => simp [selOf, decodedBy]
  | _ => rfl

/-- A row with a length writes its select bit, the flush strobe and the battery flag (R141 to R146). -/
theorem exec_known_row {row : TypeRow} (s : State) (h : row.length.isSome) :
    exec row.instr s = .next (s.select (selOf row) (decide (row = .status))) := by
  cases row with
  | unknown t => cases h
  | _ => rfl

/-- Settles O16: in each of the six clauses the row is the one of the type byte, and the other two parts are
`exec_known_row` and `decoded_of_selOf` of that row. -/
theorem typeRowsSelectTheirDecoder : Obligations.TypeRowsSelectTheirDecoder :=
  fun s =>
    ⟨⟨rfl, exec_known_row (row := .rain) s rfl, decoded_of_selOf (row := .rain) rfl⟩,
     ⟨rfl, exec_known_row (row := .tempHum) s rfl, decoded_of_selOf (row := .tempHum) rfl⟩,
     ⟨rfl, exec_known_row (row := .pressure) s rfl, decoded_of_selOf (row := .pressure) rfl⟩,
     ⟨rfl, exec_known_row (row := .uv) s rfl, decoded_of_selOf (row := .uv) rfl⟩,
     ⟨rfl, exec_known_row (row := .wind) s rfl, decoded_of_selOf (row := .wind) rfl⟩,
     ⟨rfl, exec_known_row (row := .status) s rfl, decoded_of_selOf (row := .status) rfl⟩⟩

/-! ### The record of every event -/

theorem eventCode_bits_inj {c d : EventCode} (h : c.bits = d.bits) : c = d := by
  revert h; cases c <;> cases d <;> decide

/-- The events of no validation (R150 to R152). -/
theorem recordInv_of_unvalidated {r : EventRecord} {c : EventCode} (hcode : r.evCode = c.bits) (hok : c ≠ .frameOk)
    (herr : c ≠ .csumErr) (hsums : r.csumRx = 0 ∧ r.csumCalc = 0)
    (hother : r.frmSel = 0 ∧ r.flush = false ∧ r.batLow = false) : RecordInv r where
  produced := ⟨c, hcode⟩
  ok h := absurd (eventCode_bits_inj (hcode.symm.trans h)) hok
  mismatch h := absurd (eventCode_bits_inj (hcode.symm.trans h)) herr
  validated h := h.elim (fun h => absurd (eventCode_bits_inj (hcode.symm.trans h)) hok)
    fun h => absurd (eventCode_bits_inj (hcode.symm.trans h)) herr
  unvalidated _ _ := hsums
  other _ := hother

theorem recMalformed_recordInv : RecordInv recMalformed :=
  recordInv_of_unvalidated (c := .malformed) rfl nofun nofun ⟨rfl, rfl⟩ ⟨rfl, rfl, rfl⟩

theorem recUnknownType_recordInv (t : Byte) (bytes : List Byte) : RecordInv (recUnknownType t bytes) :=
  recordInv_of_unvalidated (c := .unknownType) rfl nofun nofun ⟨rfl, rfl⟩ ⟨rfl, rfl, rfl⟩

theorem recOverrun_recordInv (frame : List Byte) : RecordInv (recOverrun frame) :=
  recordInv_of_unvalidated (c := .overrun) rfl nofun nofun ⟨rfl, rfl⟩ ⟨rfl, rfl, rfl⟩

theorem oneHot_selOf {row : TypeRow} (h : row.length.isSome) : oneHot (selOf row) = true := by
  cases row with
  | unknown t => cases h
  | _ => rfl

theorem TableFrame.recDispatched_recordInv {frame : List Byte} (h : TableFrame frame) (surplus : Bool)
    (hmatch : rxChecksum frame = calcChecksum frame) : RecordInv (recDispatched frame surplus) := by
  have hcarried : carriedFrame (recDispatched frame surplus) = frame := h.carriedFrame_eq rfl rfl
  have hsel : oneHot (selOf (typeRow (frame.getD 1 0))) = true := oneHot_selOf (Option.isSome_of_eq_some h.table)
  exact {
    produced := ⟨.frameOk, rfl⟩
    ok := fun _ => ⟨rfl, hsel, rfl, rfl, hmatch, h.table⟩
    mismatch := fun hc => absurd (eventCode_bits_inj (c := .frameOk) hc) nofun
    validated := fun _ => by rw [hcarried]; exact ⟨rfl, rfl⟩
    unvalidated := fun hc => absurd rfl hc
    other := fun hc => absurd rfl hc }

theorem TableFrame.recCsumErr_recordInv {frame : List Byte} (h : TableFrame frame) (surplus : Bool)
    (hdiffer : rxChecksum frame ≠ calcChecksum frame) : RecordInv (recCsumErr frame surplus) := by
  have hcarried : carriedFrame (recCsumErr frame surplus) = frame := h.carriedFrame_eq rfl rfl
  exact {
    produced := ⟨.csumErr, rfl⟩
    ok := fun hc => absurd (eventCode_bits_inj (c := .csumErr) hc) nofun
    mismatch := fun _ => hdiffer
    validated := fun _ => by rw [hcarried]; exact ⟨rfl, rfl⟩
    unvalidated := fun _ hc => absurd rfl hc
    other := fun _ => ⟨rfl, rfl, rfl⟩ }

theorem TableFrame.frameOutcome_recordInv {frame : List Byte} (h : TableFrame frame) (surplus : Bool) (s : State) :
    RecordInv (frameOutcome frame surplus s).record := by
  by_cases hd : surplus = true ∧ s.params.overrunPolicy = .discard
  · rw [frameOutcome_of_discard frame hd]
    exact recOverrun_recordInv frame
  · by_cases hsum : rxChecksum frame = calcChecksum frame
    · rw [frameOutcome_of_match hd hsum]
      exact h.recDispatched_recordInv surplus hsum
    · rw [frameOutcome_of_mismatch hd hsum]
      exact h.recCsumErr_recordInv surplus hsum

theorem accumulated_evValid (all : List Byte) (n : BitVec 5) (s : State) :
    (s.accumulated all n).evValid = s.evValid := rfl

/-- The cases of `insyncOutcome`: an event comes of an unknown type or of a complete frame. -/
theorem insyncOutcome_recordInv {all : List Byte} {s : State} (h0 : s.evValid = false)
    (h1 : (insyncOutcome all s).evValid = true) : RecordInv (insyncOutcome all s).record := by
  have quiet {n : BitVec 5} : insyncOutcome all s ≠ s.accumulated all n := fun h => by
    rw [h, accumulated_evValid, h0] at h1
    cases h1
  by_cases hlen : all.length ≤ 2
  · exact absurd (insyncOutcome_short s hlen) quiet
  · have hthree : 3 ≤ all.length := by omega
    cases ht : lenTable (all.getD 1 0) with
    | none =>
      rw [insyncOutcome_unknown s hthree ht]
      exact recUnknownType_recordInv _ _
    | some n =>
      by_cases hn : all.length < n.toNat
      · exact absurd (insyncOutcome_incomplete s hthree ht hn) quiet
      · have hreach : n.toNat ≤ all.length := Nat.le_of_not_lt hn
        rw [insyncOutcome_complete s ht hreach]
        exact (tableFrame_take ht hreach).frameOutcome_recordInv _ s

theorem transact_frag_recordInv {f : Fragment} {s u : State} (hinv : FramingInv s)
    (h : transact (.frag f) s = .next u) (h0 : s.evValid = false) (h1 : u.evValid = true) : RecordInv u.record := by
  rcases transact_frag_event h h0 h1 with hm | ⟨hm, hc, -⟩
  · rw [transact_of_decodeOp (decodeOp_frag_malformed _ _ hm)] at h
    obtain rfl : s.emit recMalformed = u := Host.Outcome.next.inj h
    exact recMalformed_recordInv
  · rw [transact_of_decodeOp (decodeOp_frag_insync _ hm hc)] at h
    obtain rfl := Host.Outcome.next.inj ((execFragInsync_eq f hinv).symm.trans h)
    exact insyncOutcome_recordInv h0 h1

theorem beginEdge_framingInv {s : State} (h : FramingInv s) : FramingInv s.beginEdge :=
  ⟨h.syncLegal, h.searching, h.unknownLength, h.knownLength, h.written, h.fromTable⟩

/-- Whatever event an edge reports, its record is one of R148 to R152. -/
theorem step_recordInv {s t : State} (hinv : FramingInv s) (h : step s = .next t) (he : t.evValid = true) :
    RecordInv t.record := by
  rcases step_cases h with ⟨-, rfl⟩ | ⟨-, -, -, u, hu, rfl⟩ | ⟨-, -, rfl⟩
  · cases he
  · exact transact_frag_recordInv (u := u) (beginEdge_framingInv hinv) hu rfl he
  · rw [quietEdge_evValid] at he
    cases he

/-! ### The battery feed -/

/-- For type 0x42 the selected decoder shows the sensor id, the low four bits of b2. -/
theorem sensorId_of_selOf {r : EventRecord} (hsel : r.frmSel = selOf (typeRow r.frmType)) (ht : r.frmType = 0x42) :
    (decoded r).tempHum.sensorId = r.frmData[2].extractLsb' 0 4 := by
  have hrow : typeRow r.frmType = .tempHum := by rw [ht]; rfl
  rw [decoded_of_selOf hsel, hrow]
  rfl

theorem batteryFeed_of_frameOk {r : EventRecord} (hrec : RecordInv r) (hok : r.evCode = EventCode.frameOk.bits) :
    batteryFeed r = some ⟨r.frmData[0], r.frmData[0].getLsbD 6, r.frmType,
      if r.frmType = 0x42 then some (r.frmData[2].extractLsb' 0 4) else none⟩ := by
  obtain ⟨hsel, -, -, hbat, -, -⟩ := hrec.ok hok
  rw [batteryFeed, if_pos hok, hbat, batteryLow]
  by_cases ht : r.frmType = 0x42
  · rw [if_pos ht, if_pos ht, sensorId_of_selOf hsel ht]
  · rw [if_neg ht, if_neg ht]

theorem batteryFeed_of_other {r : EventRecord} (hok : r.evCode ≠ EventCode.frameOk.bits) : batteryFeed r = none :=
  if_neg hok

/-- Settles O57: the record of the event meets `RecordInv` (`step_recordInv`), so on FRAME_OK its battery flag is bit 6 of
byte 0 and the decoder of its type is open. -/
theorem batteryFeedOnFrameOkOnly : Obligations.BatteryFeedOnFrameOkOnly := by
  intro s t hinv h he
  by_cases hok : t.record.evCode = 1
  · rw [if_pos hok]
    exact batteryFeed_of_frameOk (step_recordInv hinv.framing h he) hok
  · rw [if_neg hok]
    exact batteryFeed_of_other hok

end Sys2Proof.Proofs
end

section
/-! PROOFS. The statements of 43_field_decode.md: the decoders' outputs as WN's formulas (R163 to R173). -/

namespace Sys2Proof.Proofs

open Sys2Proof.Machine Sys2Proof.Claims

/-! ### The operand forms of 30_encoding.md as numbers -/

theorem append_toNat {m n : Nat} (hi : BitVec m) (lo : BitVec n) :
    (hi ++ lo).toNat = hi.toNat * 2 ^ n + lo.toNat := by
  rw [BitVec.toNat_append, ← Nat.shiftLeft_add_eq_or_of_lt lo.isLt, Nat.shiftLeft_eq]

theorem loNibble_toNat (b : Byte) : (loNibble b).toNat = b.toNat % 16 := by
  rw [loNibble, BitVec.extractLsb'_toNat, Nat.shiftRight_zero]

/-- The high nibble is the whole quotient: a byte is below 256. -/
theorem hiNibble_toNat (b : Byte) : (hiNibble b).toNat = b.toNat / 16 := by
  have hb : b.toNat < 256 := b.isLt
  rw [hiNibble, BitVec.extractLsb'_toNat, Nat.shiftRight_eq_div_pow]
  omega

theorem pair12_toNat (hi lo : Byte) : (pair12 hi lo).toNat = hi.toNat % 16 * 256 + lo.toNat :=
  (append_toNat (loNibble hi) lo).trans (by simp only [loNibble_toNat, Nat.reducePow])

theorem windAvg12_toNat (b6 b5 : Byte) : (windAvg12 b6 b5).toNat = b6.toNat * 16 + b5.toNat / 16 := by
  simp only [windAvg12, append_toNat, hiNibble_toNat, Nat.reducePow]

theorem getLsbD_iff_div_mod (b : Byte) (i : Nat) : b.getLsbD i = true ↔ b.toNat / 2 ^ i % 2 = 1 := by
  rw [BitVec.getLsbD, Nat.testBit_eq_decide_div_mod_eq, decide_eq_true_iff]

/-- The top bit of a byte (a sign in R165, not powered in R173) is a comparison. -/
theorem getLsbD_seven_iff (b : Byte) : b.getLsbD 7 = true ↔ 128 ≤ b.toNat := by
  have hb : b.toNat < 256 := b.isLt
  rw [getLsbD_iff_div_mod]
  omega

/-! ### Rain, Pressure and UV -/

/-- R163's order of the two bytes, high byte first. -/
theorem pair16_toNat_highFirst (hi lo : Byte) : (pair16 hi lo).toNat = hi.toNat * 256 + lo.toNat := by
  rw [pair16_toNat, Nat.add_comm, Nat.mul_comm]

/-- R168's order of the two bytes, low byte first. -/
theorem pair12_toNat_lowFirst (hi lo : Byte) : (pair12 hi lo).toNat = lo.toNat + hi.toNat % 16 * 256 := by
  rw [pair12_toNat, Nat.add_comm]

theorem decPressure_fcInTable_iff (d : Vector Byte 17) :
    (decPressure d).fcInTable = true ↔ d[3].toNat / 16 < 7 := by
  rw [decPressure, decide_eq_true_iff, hiNibble_toNat]

/-- Settles O50: each field is its operand form read as a number; b3 gives its low nibble to the absolute pressure and
its high nibble to the forecast index. -/
theorem rainPressureUvFormulas : Obligations.RainPressureUvFormulas := by
  intro d
  refine ⟨?rain, ?pressure, ?uv⟩
  case rain =>
    exact ⟨pair12_toNat _ _, pair16_toNat_highFirst _ _, pair16_toNat_highFirst _ _, pair16_toNat_highFirst _ _,
      rfl, rfl, rfl, rfl, rfl⟩
  case pressure =>
    exact ⟨pair12_toNat_lowFirst _ _, pair12_toNat_lowFirst _ _, hiNibble_toNat _, decPressure_fcInTable_iff d⟩
  case uv => rfl

/-! ### Temperature/Humidity: the sensor id decides the location and the dew point (R165) -/

theorem loNibble_eq_iff (b : Byte) (k : BitVec 4) : loNibble b = k ↔ b.toNat % 16 = k.toNat := by
  rw [← BitVec.toNat_inj, loNibble_toNat]

/-- The outdoor sensor, the one with a dew point. -/
theorem loNibble_eq_one_iff (b : Byte) : loNibble b = 1 ↔ b.toNat % 16 = 1 := loNibble_eq_iff b 1

theorem thLocation_loNibble_toNat (b : Byte) :
    (thLocation (loNibble b)).toNat = if b.toNat % 16 = 0 then 0 else if b.toNat % 16 = 1 then 1 else 2 := by
  have hindoor : loNibble b = 0 ↔ b.toNat % 16 = 0 := loNibble_eq_iff b 0
  simp only [thLocation, hindoor, loNibble_eq_one_iff, apply_ite BitVec.toNat]
  rfl

theorem decTempHum_dewValid_iff (d : Vector Byte 17) :
    (decTempHum d).dewValid = true ↔ d[2].toNat % 16 = 1 := by
  rw [decTempHum, beq_iff_eq, loNibble_eq_one_iff]

theorem decTempHum_dewMag_toNat (d : Vector Byte 17) :
    (decTempHum d).dewMag.toNat =
      if d[2].toNat % 16 = 1 then d[7].toNat % 16 * 256 + d[6].toNat else 0 := by
  simp only [decTempHum, loNibble_eq_one_iff, apply_ite BitVec.toNat, pair12_toNat]
  rfl

theorem decTempHum_dewNeg_iff (d : Vector Byte 17) :
    (decTempHum d).dewNeg = true ↔ d[2].toNat % 16 = 1 ∧ 128 ≤ d[7].toNat := by
  rw [decTempHum, Bool.and_eq_true, beq_iff_eq, loNibble_eq_one_iff, getLsbD_seven_iff]

theorem decTempHum_implausible_iff (d : Vector Byte 17) :
    (decTempHum d).implausible = true ↔ 1000 < d[4].toNat % 16 * 256 + d[3].toNat := by
  rw [decTempHum, thImplausible, decide_eq_true_iff, pair12_toNat]

/-! ### Wind: the sentinel is the whole byte b8 (R171) -/

theorem eq_noChill_iff (b : Byte) : b = 0x20 ↔ b.toNat = 0x20 := BitVec.toNat_inj.symm

theorem decWind_chillValid_iff (d : Vector Byte 17) : (decWind d).chillValid = true ↔ d[8].toNat ≠ 0x20 := by
  rw [decWind, bne_iff_ne, Ne, eq_noChill_iff]

theorem decWind_chillRaw_toNat (d : Vector Byte 17) :
    (decWind d).chillRaw.toNat = if d[8].toNat = 0x20 then 0 else d[8].toNat % 16 * 256 + d[7].toNat := by
  simp only [decWind, eq_noChill_iff, apply_ite BitVec.toNat, pair12_toNat]
  rfl

/-! ### Status: the bits of b0 (R173) -/

theorem decStatus_powered_iff (d : Vector Byte 17) : (decStatus d).powered = true ↔ d[0].toNat < 128 := by
  rw [decStatus, notPowered, Bool.not_eq_true', ← Bool.not_eq_true, getLsbD_seven_iff, Nat.not_le]

/-- Settles O51: the plain fields are their operand forms read as numbers; the sensor id, the sentinel and the flags are
tests on the bytes. -/
theorem tempHumWindStatusFormulas : Obligations.TempHumWindStatusFormulas := by
  intro d
  refine ⟨?tempHum, ?wind, ?status⟩
  case tempHum =>
    exact ⟨loNibble_toNat _, thLocation_loNibble_toNat _, pair12_toNat _ _, getLsbD_seven_iff _, rfl,
      decTempHum_dewValid_iff d, decTempHum_dewMag_toNat d, decTempHum_dewNeg_iff d, decTempHum_implausible_iff d⟩
  case wind =>
    exact ⟨loNibble_toNat _, pair12_toNat _ _, windAvg12_toNat _ _, decWind_chillValid_iff d,
      decWind_chillRaw_toNat d⟩
  case status =>
    exact ⟨rfl, rfl, rfl, rfl, rfl, decStatus_powered_iff d, getLsbD_iff_div_mod _ 5, getLsbD_iff_div_mod _ 4⟩

end Sys2Proof.Proofs
end

section
/-! PROOFS. The statements of 60_exceptions.md: the idle block holds its state (R213). -/

namespace Sys2Proof.Proofs

open Sys2Proof.Machine Sys2Proof.Claims

/-! ### Runs of edges -/

theorem runEdges_of_step {s t : State} (n : Nat) (h : step s = .next t) : runEdges (n + 1) s = runEdges n t := by
  rw [runEdges, h]

/-- What the host drives at each of the coming edges, it drives at the first; after its list has ended it is idle. -/
theorem portIn_of_take {P : PortIn → Prop} {s : State} {n : Nat} (hidle : P PortIn.idle)
    (h : ∀ p ∈ s.inputs.take (n + 1), P p) : P s.portIn := by
  unfold State.portIn
  cases hin : s.inputs with
  | nil => exact hidle
  | cons p ps => exact h p (by simp [hin])

/-- After the first edge the rest of the coming edges is still to come. -/
theorem mem_take_of_beginEdge {s : State} {n : Nat} {p : PortIn} (h : p ∈ s.beginEdge.inputs.take n) :
    p ∈ s.inputs.take (n + 1) := by
  have htail : (s.inputs.take (n + 1)).tail = s.beginEdge.inputs.take n :=
    List.tail_take_eq_take_tail s.inputs (n + 1)
  exact List.mem_of_mem_tail (htail ▸ h)

/-! ### The idle block -/

/-- With BUSY = 0 and nothing driven no operation completes and no fragment is accepted. -/
theorem step_of_idle {s : State} (hb : s.busy = false) (hr : s.portIn.rst = false) (hv : s.portIn.valid = false) :
    step s = .next s.beginEdge := by
  simp [step, edgeOp_none hr (.inl hb), State.quietEdge, hb, hv]

theorem inReady_of_idle {s : State} (hb : s.busy = false) (hr : s.portIn.rst = false) : s.inReady = true := by
  simp [State.inReady, hb, hr]

/-- Settles O31, by induction on the number of edges: an idle edge is `beginEdge`, which writes none of the fields
named and leaves the block idle, so what the remaining edges keep of the state after it is what it had before. -/
theorem idleBlockHoldsItsState : Obligations.IdleBlockHoldsItsState := by
  intro n
  induction n with
  | zero => exact fun s hb _ => ⟨s, rfl, hb, ⟨rfl, rfl, rfl, fun _ => rfl⟩, rfl, rfl, rfl, inReady_of_idle hb⟩
  | succ n ih =>
    intro s hb hquiet
    obtain ⟨hr, hv⟩ := portIn_of_take (P := fun p => p.rst = false ∧ p.valid = false) ⟨rfl, rfl⟩ hquiet
    obtain ⟨t, hrun, hbusy, hframing, hcnt, hparams, hinputs, hready⟩ :=
      ih s.beginEdge hb fun p hp => hquiet p (mem_take_of_beginEdge hp)
    have hrunAll : runEdges (n + 1) s = .next t := (runEdges_of_step n (step_of_idle hb hr hv)).trans hrun
    have hdrop : t.inputs = s.inputs.drop (n + 1) := by rw [hinputs, State.beginEdge_inputs, List.drop_tail]
    exact ⟨t, hrunAll, hbusy, hframing, hcnt, hparams, hdrop, hready⟩

end Sys2Proof.Proofs
end

section
/-! PROOFS. The statements of 70_reset_and_hazards.md: the edge with `rst = 1` (R230). -/

namespace Sys2Proof.Proofs

open Sys2Proof.Machine Sys2Proof.Claims

/-! ### The reset edge -/

/-- A power-reset block has nothing in flight, so completing the RESET operation leaves it as it is. -/
theorem powerReset_retire (s : State) : s.powerReset.retire = s.powerReset := rfl

/-- RESET comes before a completion and an acceptance (R230). -/
theorem step_of_rst {s : State} (hr : s.portIn.rst = true) : step s = .next s.beginEdge.powerReset := by
  simp only [step, edgeOp_rst hr, transact_rst, onNext_next, powerReset_retire]

theorem inReady_of_rst {s : State} (hr : s.portIn.rst = true) : s.inReady = false := by
  simp [State.inReady, hr]

theorem evValidOut_of_rst {s : State} (hr : s.portIn.rst = true) : s.evValidOut = false := by
  simp [State.evValidOut, hr]

/-- Settles O25: `rst` masks both ports, and the edge answers the power-reset block (`step_of_rst`), whose framing group is
cleared (`powerReset_framingCleared`) and whose other fields are read off by their laws. -/
theorem resetEdgeAbortsEverything : Obligations.ResetEdgeAbortsEverything := by
  intro s hr
  refine ⟨inReady_of_rst hr, evValidOut_of_rst hr, s.beginEdge.powerReset, step_of_rst hr,
    powerReset_framingCleared s.beginEdge, ?_⟩
  simp

end Sys2Proof.Proofs
end

section
/-! PROOFS. The machine's invariant: it holds at reset, every step keeps it, and from every state that meets it the stream
never stops (10_state.md R21 to R25, 60_exceptions.md R201). -/

namespace Sys2Proof.Proofs

open Sys2Proof.Machine Sys2Proof.Claims

/-! ### The framing group -/

/-- The framing invariants speak of the framing group and BUF only. -/
theorem framingInv_congr {s t : State} (h : FramingInv s) (hsync : t.syncCnt = s.syncCnt) (hbuf : t.buf = s.buf)
    (hlen : t.bufLen = s.bufLen) (hexp : t.expLen = s.expLen) : FramingInv t where
  syncLegal := hsync ▸ h.syncLegal
  searching hc := by rw [hlen, hexp]; exact h.searching (hsync ▸ hc)
  unknownLength he := by rw [hlen]; exact h.unknownLength (hexp ▸ he)
  knownLength he := by rw [hlen, hexp]; exact h.knownLength (hexp ▸ he)
  written := by rw [hbuf, hlen]; exact h.written
  fromTable he := by
    rw [State.bufRead, hbuf, hlen, hexp]
    exact h.fromTable (hexp ▸ he)

/-- With nothing buffered and no length known every SYNC_CNT but 3 meets the framing invariants. -/
theorem framingInv_of_empty {s : State} (hsync : s.syncCnt ≠ 3) (hbuf : s.buf = []) (hlen : s.bufLen = 0)
    (hexp : s.expLen = 0) : FramingInv s where
  syncLegal := hsync
  searching _ := ⟨hlen, hexp⟩
  unknownLength _ := by rw [hlen]; decide
  knownLength he := absurd hexp he
  written := by rw [hbuf, hlen]; rfl
  fromTable he := absurd hexp he

/-- After a frame reset, and after RESET. -/
theorem framingInv_of_cleared {s : State} (hsync : s.syncCnt = 0) (hbuf : s.buf = []) (hlen : s.bufLen = 0)
    (hexp : s.expLen = 0) : FramingInv s :=
  framingInv_of_empty (by rw [hsync]; decide) hbuf hlen hexp

/-- While searching nothing is buffered, so any other legal SYNC_CNT meets the framing invariants too (R25 (a)). -/
theorem setSyncCnt_framingInv {s : State} {c : BitVec 2} (h : FramingInv s) (hs : s.syncCnt ≠ 2) (hc : c ≠ 3) :
    FramingInv (s.setSyncCnt c) := by
  obtain ⟨hlen, hexp⟩ := h.searching hs
  have hbuf : s.buf = [] := by
    have hwritten := h.written
    rw [hlen] at hwritten
    exact List.map_eq_nil_iff.mp hwritten
  exact framingInv_of_empty hc hbuf hlen hexp

/-! ### What an in-sync fragment comes to -/

/-- The bytes `all` are the whole of a frame in progress with this EXP_LEN (R25 (b), (c)). -/
def InProgress (all : List Byte) (e : BitVec 5) : Prop :=
  (e = 0 ∧ all.length ≤ 2) ∨
    (e ≠ 0 ∧ 3 ≤ all.length ∧ all.length < e.toNat ∧ lenTable (all.getD 1 0) = some e)

theorem InProgress.length_lt {all : List Byte} {e : BitVec 5} (h : InProgress all e) : all.length < 17 := by
  rcases h with ⟨-, hle⟩ | ⟨-, -, hlt, htab⟩
  · omega
  · have hbounds := legalLen_bounds (legalLen_of_lenTable htab)
    omega

/-- A known length is never 0. -/
theorem lenTable_ne_zero {t : Byte} {n : BitVec 5} (h : lenTable t = some n) : n ≠ 0 := by
  rintro rfl
  exact absurd (legalLen_of_lenTable h) (by decide)

/-- The three ends of an in-sync fragment: the frame goes on, its type is unknown, or it is complete. -/
theorem insyncOutcome_cases (all : List Byte) (s : State) :
    (∃ e, InProgress all e ∧ insyncOutcome all s = s.accumulated all e) ∨
    insyncOutcome all s = s.frameReset.emit (recUnknownType (all.getD 1 0) (all.take 3)) ∨
    (∃ n, lenTable (all.getD 1 0) = some n ∧ n.toNat ≤ all.length ∧
      insyncOutcome all s = frameOutcome (all.take n.toNat) (decide (n.toNat < all.length)) s) := by
  by_cases hshort : all.length ≤ 2
  · exact .inl ⟨0, .inl ⟨rfl, hshort⟩, insyncOutcome_short s hshort⟩
  · have hthree : 3 ≤ all.length := by omega
    cases ht : lenTable (all.getD 1 0) with
    | none => exact .inr (.inl (insyncOutcome_unknown s hthree ht))
    | some n =>
      by_cases hn : all.length < n.toNat
      · exact .inl ⟨n, .inr ⟨lenTable_ne_zero ht, hthree, hn, ht⟩, insyncOutcome_incomplete s hthree ht hn⟩
      · have hreach : n.toNat ≤ all.length := Nat.le_of_not_lt hn
        exact .inr (.inr ⟨n, rfl, hreach, insyncOutcome_complete s ht hreach⟩)

theorem accumulated_buffering {all : List Byte} {e : BitVec 5} (s : State) (h : InProgress all e) :
    Buffering (s.accumulated all e) all := by
  have hlen : (BitVec.ofNat 5 all.length).toNat = all.length := by
    rw [BitVec.toNat_ofNat, Nat.mod_eq_of_lt (Nat.lt_trans h.length_lt (by decide))]
  exact ⟨⟨rfl, hlen⟩, h⟩

/-- Whatever becomes of a complete frame, the framing group is reset (40_assembler.md R110, R111). -/
theorem frameOutcome_framing (frame : List Byte) (surplus : Bool) (s : State) :
    (frameOutcome frame surplus s).syncCnt = 0 ∧ (frameOutcome frame surplus s).buf = [] ∧
      (frameOutcome frame surplus s).bufLen = 0 ∧ (frameOutcome frame surplus s).expLen = 0 := by
  unfold frameOutcome
  split_ifs <;> exact ⟨rfl, rfl, rfl, rfl⟩

theorem insyncOutcome_framingInv {s : State} (all : List Byte) (hs : s.syncCnt = 2) :
    FramingInv (insyncOutcome all s) := by
  rcases insyncOutcome_cases all s with ⟨e, hprogress, hout⟩ | hout | ⟨n, -, -, hout⟩ <;> rw [hout]
  · exact framingInv_of_buffering (accumulated_buffering s hprogress) hs
  · exact framingInv_of_cleared rfl rfl rfl rfl
  · obtain ⟨hsync, hbuf, hlen, hexp⟩ := frameOutcome_framing (all.take n.toNat) (decide (n.toNat < all.length)) s
    exact framingInv_of_cleared hsync hbuf hlen hexp

/-! ### Transactions and steps -/

/-- From a state that meets the framing invariants every fragment's transaction answers a state that meets them. -/
theorem transact_frag_framingInv {s : State} (f : Fragment) (h : FramingInv s) :
    ∃ u, transact (.frag f) s = .next u ∧ FramingInv u := by
  rw [transact_frag]
  split_ifs with hm hsync hfalse hthree hmarker
  · exact ⟨_, rfl, framingInv_congr h rfl rfl rfl rfl⟩
  · exact ⟨_, execFragInsync_eq f h, insyncOutcome_framingInv _ hsync⟩
  · exact ⟨_, rfl, setSyncCnt_framingInv h hsync (by decide)⟩
  · exact absurd hthree h.syncLegal
  · have hnext : s.syncCnt + 1 ≠ 3 := fun hc => hsync (add_right_cancel (b := 1) hc)
    exact ⟨_, rfl, setSyncCnt_framingInv h hsync hnext⟩
  · exact ⟨_, rfl, h⟩

/-- What a fragment's transaction leaves alone, whichever operation it is. -/
theorem transact_frag_kept {f : Fragment} {s u : State} (h : transact (.frag f) s = .next u) : Kept s u := by
  rcases transact_frag_cases h with
    ⟨-, rfl⟩ | ⟨-, -, hquiet | ⟨_, hrep⟩⟩ | ⟨-, -, -, rfl⟩ | ⟨-, -, -, rfl⟩ | ⟨-, -, -, rfl⟩
  · exact ⟨rfl, rfl, rfl, rfl, rfl, rfl, rfl, rfl⟩
  · exact hquiet.kept
  · exact hrep.kept
  · exact ⟨rfl, rfl, rfl, rfl, rfl, rfl, rfl, rfl⟩
  · exact ⟨rfl, rfl, rfl, rfl, rfl, rfl, rfl, rfl⟩
  · exact Kept.refl _

theorem step_params {s t : State} (h : step s = .next t) : t.params = s.params := by
  rcases step_cases h with ⟨-, rfl⟩ | ⟨-, -, -, u, hu, rfl⟩ | ⟨-, -, rfl⟩
  · rfl
  · exact (transact_frag_kept hu).params
  · rcases quietEdge_cases s with ⟨-, hq⟩ | ⟨-, -, hq⟩ | ⟨-, -, hq⟩ <;> rw [hq] <;> rfl

/-- An edge that completes no transaction writes nothing of the framing group. -/
theorem quietEdge_framingInv {s : State} (h : FramingInv s) : FramingInv s.quietEdge := by
  rcases quietEdge_cases s with ⟨-, hq⟩ | ⟨-, -, hq⟩ | ⟨-, -, hq⟩ <;> rw [hq] <;>
    exact framingInv_congr h rfl rfl rfl rfl

theorem step_framingInv {s t : State} (hinv : FramingInv s) (h : step s = .next t) : FramingInv t := by
  rcases step_cases h with ⟨-, rfl⟩ | ⟨-, -, -, u, hu, rfl⟩ | ⟨-, -, rfl⟩
  · exact framingInv_of_cleared rfl rfl rfl rfl
  · obtain ⟨u', hu', hframing⟩ := transact_frag_framingInv s.pend (beginEdge_framingInv hinv)
    obtain rfl : u' = u := Host.Outcome.next.inj (hu'.symm.trans hu)
    exact framingInv_congr hframing rfl rfl rfl rfl
  · exact quietEdge_framingInv hinv

/-- The window of a transaction in flight: it is set between 1 and LAT_MAX at acceptance and only shrinks, ending at the
completing edge (70_reset_and_hazards.md R235). -/
theorem step_window {s t : State} (hinv : Inv s) (h : step s = .next t) (hb : t.busy = true) :
    1 ≤ t.remaining ∧ t.remaining ≤ s.params.latMax := by
  rcases step_cases h with ⟨-, rfl⟩ | ⟨-, -, -, u, -, rfl⟩ | ⟨-, hwait, rfl⟩
  · cases hb
  · cases hb
  · rcases quietEdge_cases s with ⟨hbusy, hq⟩ | ⟨-, -, hq⟩ | ⟨hbusy, -, hq⟩
    · have hmore : 1 < s.remaining := hwait.resolve_left (by simp [hbusy])
      have hwindow := hinv.window hbusy
      rw [hq, State.waitEdge_remaining]
      omega
    · rw [hq]
      exact latency_bounds hinv.latMax
    · rw [hq, State.beginEdge_busy, hbusy] at hb
      cases hb

theorem step_inv {s t : State} (hinv : Inv s) (h : step s = .next t) : Inv t where
  framing := step_framingInv hinv.framing h
  window hb := by rw [step_params h]; exact step_window hinv h hb
  latMax := by rw [step_params h]; exact hinv.latMax
  event he := step_recordInv hinv.framing h he

/-- From a state that meets the framing invariants an edge answers a next state (60_exceptions.md R201). -/
theorem step_safe {s : State} (hinv : FramingInv s) : SafeStep s := by
  unfold SafeStep step
  cases s.edgeOp with
  | none => exact ⟨_, rfl⟩
  | some op =>
    cases op with
    | rst => simp
    | frag f =>
      obtain ⟨u, hu, -⟩ := transact_frag_framingInv f (beginEdge_framingInv hinv)
      simp [hu]

/-- Settles O41: each clause of the invariant has its own step lemma (`step_framingInv`, `step_window`, `step_params`,
`step_recordInv`). -/
theorem everyStepKeepsTheInvariant : Obligations.EveryStepKeepsTheInvariant :=
  fun _ _ => step_inv

/-- Settles O42, by induction on the number of edges: a step answers (`step_safe`) and keeps the invariant (`step_inv`). -/
theorem theStreamNeverFails : Obligations.TheStreamNeverFails := by
  intro n
  induction n with
  | zero => exact fun s hinv => ⟨s, rfl, hinv⟩
  | succ n ih =>
    intro s hinv
    obtain ⟨s', hstep⟩ := step_safe hinv.framing
    obtain ⟨t, hrun, ht⟩ := ih s' (step_inv hinv hstep)
    exact ⟨t, (runEdges_of_step n hstep).trans hrun, ht⟩

/-- Settles O40: at reset nothing is buffered, nothing is in flight, no event is shown, and LAT_MAX is some number plus
one. -/
theorem invariantHoldsAtReset : Obligations.InvariantHoldsAtReset where
  framing := framingInv_of_cleared rfl rfl rfl rfl
  window hb := nomatch hb
  latMax := Nat.le_add_left 1 _
  event he := nomatch he

/-- Settles O38: RESET, the handshake and every fragment's transaction leave the parameters alone (`step_params`). -/
theorem parametersAreNeverWritten : Obligations.ParametersAreNeverWritten :=
  fun _ _ => step_params

end Sys2Proof.Proofs
end

section
/-! PROOFS. The clocked side (70_reset_and_hazards.md R230 to R235): the ports, single edges, and runs of edges through the
busy window up to the completion of the transaction and the next acceptance. -/

namespace Sys2Proof.Proofs

open Sys2Proof.Machine Sys2Proof.Claims

/-! ### Single edges -/

/-- Settles O33: each port is its element, masked by `rst` where R28 and R230 say so. -/
theorem portsShowTheState : Obligations.PortsShowTheState := by
  intro s
  refine ⟨rfl, rfl, rfl, rfl, rfl, fun hr => evValidOut_of_rst hr, fun hr => ?_, fun hr he => ?_⟩
  · simp [State.ports, State.evValidOut, hr]
  · have hshown : s.recordOut = s.record := by simp [State.recordOut, State.evValidOut, hr, he]
    exact ⟨hshown, congrArg decoded hshown⟩

/-- A ready block with a fragment on offer accepts it (R234). -/
theorem step_of_accept {s : State} (hr : s.portIn.rst = false) (hv : s.portIn.valid = true) (hb : s.busy = false) :
    step s = .next s.acceptEdge := by
  simp [step, edgeOp_none hr (.inl hb), State.quietEdge, hb, hv]

/-- With more than one edge left a transaction in flight waits (R235). -/
theorem step_of_wait {s : State} (hr : s.portIn.rst = false) (hb : s.busy = true) (hk : 1 < s.remaining) :
    step s = .next s.waitEdge := by
  simp [step, edgeOp_none hr (.inr hk), State.quietEdge, hb]

/-- On its last edge a transaction in flight completes (R235). -/
theorem step_of_complete {s : State} (hr : s.portIn.rst = false) (hb : s.busy = true) (hk : s.remaining ≤ 1) :
    step s = onNext (transact (.frag s.pend) s.beginEdge) State.retire := by
  rw [step, edgeOp_frag hr hb hk]

theorem inReady_of_busy {s : State} (hb : s.busy = true) : s.inReady = false := by
  simp [State.inReady, hb]

/-- Settles O26: the state after the edge is the power-reset block, whose ports are read off; it is ready and no offer
stands, so the fragment on the lanes is captured. -/
theorem portsAfterReset : Obligations.PortsAfterReset := by
  intro s t hr hstep hr'
  obtain rfl : s.beginEdge.powerReset = t := Host.Outcome.next.inj ((step_of_rst hr).symm.trans hstep)
  refine ⟨inReady_of_idle rfl hr', rfl, rfl, rfl, rfl, rfl, fun hv => ?_⟩
  exact ⟨_, step_of_accept hr' hv rfl, rfl, captured_eq (s := s.beginEdge.powerReset) (.inl rfl)⟩

/-- Settles O27: the edge is `acceptEdge`; a kept offer is captured as driven and the latency lies in R235's bounds. -/
theorem acceptingEdgeCapturesTheFragment : Obligations.AcceptingEdgeCapturesTheFragment := by
  intro s hr hv hb hmax hoffer
  obtain ⟨hlow, hhigh⟩ := latency_bounds hmax
  exact ⟨_, step_of_accept hr hv hb, rfl, captured_eq hoffer, hlow, hhigh, rfl, ⟨rfl, rfl, rfl, fun _ => rfl⟩,
    rfl, rfl, rfl⟩

/-- Settles O28: the edge is `waitEdge`. -/
theorem busyWindowChangesNothing : Obligations.BusyWindowChangesNothing := by
  intro s hr hb hk
  exact ⟨inReady_of_busy hb, _, step_of_wait hr hb hk, hb, rfl, rfl, rfl, ⟨rfl, rfl, rfl, fun _ => rfl⟩, rfl, rfl⟩

/-- Settles O29: `edgeOp` selects RESET or the fragment in flight, and `transact` runs what `decodeOp` makes of it. -/
theorem stepRunsTheDecodedInstruction : Obligations.StepRunsTheDecodedInstruction := by
  intro s
  refine ⟨fun hr => ?_, fun hr hb hk => ?_, ?_, ?_⟩
  · simp only [step, edgeOp_rst hr, transact, decodeOp_rst]
  · rw [step_of_complete hr hb hk, transact, State.beginEdge_params, State.beginEdge_syncCnt]
  · exact ⟨⟨rfl, rfl, rfl, fun _ => rfl⟩, rfl, rfl, rfl, rfl, rfl, rfl⟩
  · exact ⟨⟨rfl, rfl, rfl, fun _ => rfl⟩, ⟨rfl, rfl⟩, rfl, rfl, rfl, rfl⟩

/-! ### Through the busy window -/

theorem portIn_of_cons {s : State} {p : PortIn} {ps : List PortIn} (h : s.inputs = p :: ps) : s.portIn = p := by
  rw [State.portIn, h]

/-- `t` is reached from `s` by `j` edges inside the busy window: but for the event cycle, which has ended, the two differ in
the handshake and the model's own fields only, and of those this is what becomes of them. -/
structure Waited (s : State) (j : Nat) (t : State) : Prop where
  block : t.clearEvent = t.around s.clearEvent
  evValid : s.evValid = false → t.evValid = false
  busy : t.busy = true
  pend : t.pend = s.pend
  remaining : t.remaining = s.remaining - j
  inputs : t.inputs = s.inputs.drop j
  offer : j ≤ s.inputs.length → t.offer = (s.inputs.take j).foldl Offer.next s.offer

theorem Waited.refl {s : State} (hb : s.busy = true) : Waited s 0 s :=
  ⟨rfl, id, hb, rfl, rfl, rfl, fun _ => rfl⟩

theorem Waited.ofWaitEdge {s t : State} {j : Nat} (h : Waited s.waitEdge j t) : Waited s (j + 1) t where
  block := h.block
  evValid _ := h.evValid rfl
  busy := h.busy
  pend := h.pend
  remaining := by rw [h.remaining, State.waitEdge_remaining]; omega
  inputs := by rw [h.inputs, State.waitEdge_inputs, List.drop_tail]
  offer hj := by
    cases hin : s.inputs with
    | nil => simp [hin] at hj
    | cons p ps =>
      have hport : s.portIn = p := portIn_of_cons hin
      rw [h.offer (by simpa [hin] using hj)]
      simp [hin, hport]

/-- Fewer edges than are left, none with `rst = 1`, stay inside the window. -/
theorem runEdges_waited {j : Nat} : ∀ {s : State}, s.busy = true → j < s.remaining →
    (∀ p ∈ s.inputs.take j, p.rst = false) → ∃ t, runEdges j s = .next t ∧ Waited s j t := by
  induction j with
  | zero => exact fun {s} hb _ _ => ⟨s, rfl, Waited.refl hb⟩
  | succ j ih =>
    intro s hb hj hrst
    have hr : s.portIn.rst = false := portIn_of_take (P := fun p => p.rst = false) rfl hrst
    obtain ⟨t, hrun, ht⟩ := ih (s := s.waitEdge) hb (by rw [State.waitEdge_remaining]; omega)
      fun p hp => hrst p (mem_take_of_beginEdge hp)
    exact ⟨t, (runEdges_of_step j (step_of_wait hr hb (by omega))).trans hrun, ht.ofWaitEdge⟩

theorem runEdges_append {j : Nat} (k : Nat) : ∀ {s t : State}, runEdges j s = .next t →
    runEdges (j + k) s = runEdges k t := by
  induction j with
  | zero =>
    intro s t h
    obtain rfl : s = t := Host.Outcome.next.inj h
    rw [Nat.zero_add]
  | succ j ih =>
    intro s t h
    cases hstep : step s with
    | next s' =>
      rw [runEdges_of_step j hstep] at h
      rw [Nat.add_right_comm, runEdges_of_step (j + k) hstep, ih h]
    | fault e => simp [runEdges, hstep] at h
    | refused e => simp [runEdges, hstep] at h

/-- The edge at which a transaction of the window completes runs it as if it had started with the window. -/
theorem Waited.step_complete {s t u : State} {j : Nat} (h : Waited s j t) (hr : t.portIn.rst = false)
    (hk : s.remaining - j ≤ 1) (hu : transaction (.frag s.pend) s = .next u) :
    step t = .next (t.beginEdge.around u).retire := by
  have hbegin : t.beginEdge = t.beginEdge.around s.clearEvent := by
    calc t.beginEdge = t.beginEdge.around t.clearEvent := rfl
      _ = t.beginEdge.around (t.around s.clearEvent) := by rw [h.block]
      _ = t.beginEdge.around s.clearEvent := rfl
  rw [transaction] at hu
  rw [step_of_complete hr h.busy (h.remaining ▸ hk), h.pend, hbegin, transact_around, hu]
  rfl

/-- Nor is the input of the edge after `j` edges an `rst`, if those of the first `j + 1` edges are none. -/
theorem portIn_rst_of_drop {s t : State} {j : Nat} (h : t.inputs = s.inputs.drop j)
    (hrst : ∀ p ∈ s.inputs.take (j + 1), p.rst = false) : t.portIn.rst = false := by
  refine portIn_of_take (P := fun p => p.rst = false) (n := 0) rfl fun p hp => hrst p ?_
  rw [h, List.take_drop] at hp
  exact List.mem_of_mem_drop hp

/-- The offer that the inputs of all edges up to the completing one leave. -/
theorem Waited.beginEdge_offer {s t : State} {j : Nat} (h : Waited s j t) (hj : j < s.inputs.length) :
    t.beginEdge.offer = (s.inputs.take (j + 1)).foldl Offer.next s.offer := by
  have hport : t.portIn = s.inputs[j] := portIn_of_cons (h.inputs.trans (List.drop_eq_getElem_cons hj))
  rw [State.beginEdge_offer, h.offer hj.le, hport, List.take_succ_eq_append_getElem hj, List.foldl_append]
  rfl

/-- The whole window: as many edges as are left run the transaction, at the last of them. The handshake and the model's own
fields are those of some `w`, of which the coming inputs and the offer are said. -/
theorem runEdges_complete {s u : State} (hb : s.busy = true) (hk : 1 ≤ s.remaining)
    (hrst : ∀ p ∈ s.inputs.take s.remaining, p.rst = false) (hu : transaction (.frag s.pend) s = .next u) :
    ∃ w : State, runEdges s.remaining s = .next (w.around u).retire ∧ w.inputs = s.inputs.drop s.remaining ∧
      (s.remaining ≤ s.inputs.length → w.offer = (s.inputs.take s.remaining).foldl Offer.next s.offer) := by
  obtain ⟨j, hj⟩ : ∃ j, s.remaining = j + 1 := ⟨s.remaining - 1, by omega⟩
  rw [hj] at hrst ⊢
  obtain ⟨t, hrun, ht⟩ := runEdges_waited (j := j) hb (by omega) fun p hp =>
    hrst p ((List.take_sublist_take_left (by omega)).subset hp)
  have hlast := ht.step_complete (portIn_rst_of_drop ht.inputs hrst) (by omega) hu
  refine ⟨t.beginEdge, ?_, ?_, ht.beginEdge_offer⟩
  · rw [runEdges_append 1 hrun, runEdges_of_step 0 hlast]
    rfl
  · rw [State.beginEdge_inputs, ht.inputs, List.tail_drop]

theorem latency_pos (s : State) : 1 ≤ s.latency := by
  have hclip : ∀ k, 1 ≤ clipLatency s.params.latMax k := fun k => by unfold clipLatency; split <;> omega
  unfold State.latency
  split <;> exact hclip _

/-- Settles O43: after the accepting edge the block is inside the window (`runEdges_waited`), where `Waited` says what the
host sees, and the window ends with the transaction (`runEdges_complete`), which reads nothing of the handshake. -/
theorem clockedRunIsTheTransaction : Obligations.ClockedRunIsTheTransaction := by
  intro s u hb hv hrst hu
  have hr : s.portIn.rst = false := portIn_of_take (P := fun p => p.rst = false) rfl hrst
  have haccept := step_of_accept hr hv hb
  have hrst' : ∀ p ∈ s.acceptEdge.inputs.take s.latency, p.rst = false := fun p hp =>
    hrst p (mem_take_of_beginEdge hp)
  refine ⟨fun j hone hj => ?_, ?_⟩
  · obtain ⟨i, rfl⟩ : ∃ i, j = i + 1 := ⟨j - 1, by omega⟩
    obtain ⟨t, hrun, ht⟩ := runEdges_waited (j := i) (s := s.acceptEdge) rfl hj fun p hp =>
      hrst' p ((List.take_sublist_take_left (by omega)).subset hp)
    have hblock : t.clearEvent = t.around s.clearEvent := ht.block
    refine ⟨t, (runEdges_of_step i haccept).trans hrun, ht.busy, inReady_of_busy ht.busy, ht.evValid rfl, ?_, ?_⟩
    · exact ⟨(congrArg State.syncCnt hblock :), (congrArg State.bufLen hblock :), (congrArg State.expLen hblock :),
        fun a => (congrArg (State.bufRead · a) hblock :)⟩
    · exact (congrArg State.csumErrCnt hblock :)
  · have hu' : transact (.frag s.captured) (s.acceptEdge.around s.clearEvent) = .next (s.acceptEdge.around u) := by
      rw [transaction] at hu
      rw [transact_around, hu, onNext_next]
    obtain ⟨w, hrun, -, -⟩ := runEdges_complete (s := s.acceptEdge) rfl (latency_pos s) hrst' hu'
    exact ⟨_, (runEdges_of_step s.latency haccept).trans hrun, rfl, ⟨rfl, rfl, rfl, fun _ => rfl⟩, rfl, fun _ => rfl,
      rfl, rfl⟩

/-! ### The offer across the window -/

theorem foldl_next_held {held : List PortIn} (h : ∀ p ∈ held, p.valid = true) :
    held.foldl Offer.next .released = .released := by
  induction held with
  | nil => rfl
  | cons p ps ih =>
    rw [List.foldl_cons, Offer.next_released (h p (by simp))]
    exact ih fun q hq => h q (by simp [hq])

/-- Lowering `in_valid` breaks no offer where the inputs were free or nothing was on offer. -/
theorem foldl_next_low {low : List PortIn} (h : ∀ p ∈ low, p.valid = false) : ∀ {o : Offer},
    o = .none ∨ o = .released → low.foldl Offer.next o = .none ∨ low.foldl Offer.next o = .released := by
  induction low with
  | nil => exact id
  | cons p ps ih =>
    intro o ho
    rw [List.foldl_cons, Offer.next_quiet ho (h p (by simp))]
    exact ih (fun q hq => h q (by simp [hq])) (.inl rfl)

/-- An offer of which R234 lets `f` be captured: `State.OfferKept`, said of the offer alone. -/
def KeptOffer (f : Fragment) (o : Offer) : Prop := o = .none ∨ o = .released ∨ o = .stable f

/-- A fragment raised and kept is the standing offer, or its lanes are still free. -/
theorem foldl_next_kept (f : Fragment) (r : Nat) : ∀ {o : Offer}, KeptOffer f o →
    KeptOffer f ((List.replicate r (⟨false, true, f⟩ : PortIn)).foldl Offer.next o) := by
  induction r with
  | zero => exact id
  | succ r ih =>
    intro o ho
    rw [List.replicate_succ, List.foldl_cons]
    exact ih (.inr (Offer.next_kept (p := ⟨false, true, f⟩) rfl ho))

/-- What the host drives inside the window: `in_valid` left at 1, then lowered, then `f` raised and kept. -/
def windowInputs (held low : List PortIn) (r : Nat) (f : Fragment) : List PortIn :=
  held ++ low ++ List.replicate r ⟨false, true, f⟩

theorem windowInputs_length (held low : List PortIn) (r : Nat) (f : Fragment) :
    (windowInputs held low r f).length = held.length + low.length + r := by
  simp [windowInputs, Nat.add_assoc]

theorem windowInputs_rst {held low : List PortIn} {r : Nat} {f : Fragment} (hheld : ∀ p ∈ held, p.rst = false)
    (hlow : ∀ p ∈ low, p.rst = false) : ∀ p ∈ windowInputs held low r f, p.rst = false := by
  intro p hp
  simp only [windowInputs, List.mem_append, List.mem_replicate] at hp
  rcases hp with (hp | hp) | ⟨-, rfl⟩
  · exact hheld p hp
  · exact hlow p hp
  · rfl

/-- The offer at the end of a window in which the host keeps R234. -/
theorem foldl_next_window {o : Offer} {held low : List PortIn} (f : Fragment) (r : Nat)
    (ho : o = .released ∨ (o = .none ∧ held = []) ∨ (o = .stable f ∧ held = [] ∧ low = []))
    (hheld : ∀ p ∈ held, p.valid = true) (hlow : ∀ p ∈ low, p.valid = false) :
    KeptOffer f ((windowInputs held low r f).foldl Offer.next o) := by
  rw [windowInputs, List.foldl_append, List.foldl_append]
  apply foldl_next_kept
  rcases ho with rfl | ⟨rfl, rfl⟩ | ⟨rfl, rfl, rfl⟩
  · rw [foldl_next_held hheld]
    exact (foldl_next_low hlow (.inr rfl)).imp_right .inl
  · exact (foldl_next_low hlow (.inl rfl)).imp_right .inl
  · exact .inr (.inr rfl)

/-- Settles O32: the window ends with BUSY = 0 and the offer that the inputs of its edges leave (`foldl_next_window`), and
the next edge captures the lanes. -/
theorem stableOfferIsAccepted : Obligations.StableOfferIsAccepted := by
  intro s u held low r f rest hb hk hoffer hheld hlow hlength hinputs hu
  have hsplit : s.inputs = windowInputs held low r f ++ ⟨false, true, f⟩ :: rest := by
    rw [hinputs, List.replicate_succ', windowInputs]
    simp only [List.append_assoc, List.singleton_append]
  have hlen : (windowInputs held low r f).length = s.remaining := (windowInputs_length ..).trans hlength
  have htake : s.inputs.take s.remaining = windowInputs held low r f := by rw [hsplit, ← hlen, List.take_left]
  have hquiet := windowInputs_rst (r := r) (f := f) (fun p hp => (hheld p hp).1) fun p hp => (hlow p hp).1
  obtain ⟨w, hrun, hdrop, hfold⟩ := runEdges_complete hb hk (htake ▸ hquiet) hu
  have hkept : KeptOffer f w.offer := by
    rw [hfold (by simp [hsplit, hlen]), htake]
    exact foldl_next_window f r hoffer (fun p hp => (hheld p hp).2) fun p hp => (hlow p hp).2
  have hport : (w.around u).retire.portIn = ⟨false, true, f⟩ := by
    have hrest : w.inputs = ⟨false, true, f⟩ :: rest := by rw [hdrop, hsplit, ← hlen, List.drop_left]
    exact portIn_of_cons hrest
  have hlast : step (w.around u).retire = .next (w.around u).retire.acceptEdge :=
    step_of_accept (by rw [hport]) (by rw [hport]) rfl
  refine ⟨_, (runEdges_append 1 hrun).trans (runEdges_of_step 0 hlast), rfl, ?_⟩
  rw [State.acceptEdge_pend, captured_eq (by rw [hport]; exact hkept), hport]

end Sys2Proof.Proofs
end

section
/-! PROOFS. Encodings and instructions: `decode` inverts `encode` (30_encoding.md sections 3 and 4), the machine decodes
well-formed instructions only, and no transaction reads an undeclared lane (R72). -/

namespace Sys2Proof.Proofs

open Sys2Proof.Machine Sys2Proof.Claims

/-! ### The byte image of a fragment -/

theorem lanesOf_toList (v : Vector Byte 19) : lanesOf v.toList = v := by
  have htake : (v.toList ++ List.replicate 19 0).take 19 = v.toList := List.take_left' v.length_toList
  apply Vector.toList_inj.mp
  rw [lanesOf, Vector.toList_mk, List.toList_toArray, htake]

/-- The error mark's byte is 0 or 1, the count's below 32, and 19 lanes follow, so nothing is rejected. -/
theorem fragmentOfImage_image (f : Fragment) (rest : List Byte) :
    fragmentOfImage (f.image ++ rest) = .ok (f, rest) := by
  obtain ⟨err, count, lanes⟩ := f
  have hlen : lanes.toList.length = 19 := lanes.length_toList
  have herr : ¬ 1 < (if err then (1 : Byte) else 0).toNat := by cases err <;> decide
  have hmark : ((if err then (1 : Byte) else 0) == 1) = err := by cases err <;> decide
  have hcount : ¬ 31 < (count.setWidth 8).toNat := by
    have := count.isLt
    rw [BitVec.toNat_setWidth]
    omega
  have hback : (count.setWidth 8).setWidth 5 = count := by simp
  have hlong : ¬ (lanes.toList ++ rest).length < 19 := by
    rw [List.length_append]
    omega
  have htake : (lanes.toList ++ rest).take 19 = lanes.toList := List.take_left' hlen
  have hdrop : (lanes.toList ++ rest).drop 19 = rest := List.drop_left' hlen
  rw [Fragment.image, List.cons_append, List.cons_append, fragmentOfImage, if_neg herr, if_neg hcount, if_neg hlong,
    hmark, hback, htake, hdrop, lanesOf_toList]

/-- A key whose row carries a fragment decodes to that row's instruction of the fragment whose image follows. -/
theorem decode_key_image {k : Byte} {row : OpRow} (hk : ¬ 31 < k.toNat) (hrow : opRow (k.setWidth 5) = row)
    (hfrag : row.hasFragment = true) (f : Fragment) (rest : List Byte) :
    decode .opKey (k :: f.image ++ rest) = .ok (row.instr f, rest) := by
  rw [List.cons_append, decode, if_neg hk, hrow]
  simp only [hfrag, if_true, fragmentOfImage_image]

/-- Settles O46, row by row: the operations with a fragment by `decode_key_image`, the rows with a fixed word by evaluation,
and TYPE_UNKNOWN because the byte of a well-formed one selects no other row. -/
theorem decodeInvertsEncode : Obligations.DecodeInvertsEncode := by
  intro p i rest hwf
  cases i with
  | fragMalformed f => exact decode_key_image (row := .malformed) (by decide) (by decide) rfl f rest
  | fragInsync f => exact decode_key_image (row := .insync) (by decide) (by decide) rfl f rest
  | fragFalseStart f => exact decode_key_image (row := .falseStart) (by decide) (by decide) rfl f rest
  | fragMarker f => exact decode_key_image (row := .marker) (by decide) (by decide) rfl f rest
  | fragIdle f => exact decode_key_image (row := .idle) (by decide) (by decide) rfl f rest
  | typeUnknown t =>
    have hrow : typeRow t = .unknown t := typeRow_of_unknown (Option.isNone_iff_eq_none.mp hwf)
    simp only [encode, decode, List.cons_append, List.nil_append, hrow, TypeRow.instr]
  | _ => rfl

/-! ### What the machine decodes -/

theorem decodeOp_wellFormed (p : Config.Params) (c : BitVec 2) (op : Op) : (decodeOp p c op).wellFormed p = true := by
  cases op with
  | rst => rw [decodeOp_rst]; rfl
  | frag f =>
    rw [decodeOp_frag]
    split_ifs <;> simp_all [Instr.wellFormed]

theorem typeRow_instr_wellFormed (p : Config.Params) (t : Byte) : (typeRow t).instr.wellFormed p = true := by
  cases hl : lenTable t with
  | none => simp [typeRow_of_unknown hl, TypeRow.instr, Instr.wellFormed, hl]
  | some n =>
    rw [lenTable] at hl
    cases hrow : typeRow t with
    | unknown u => simp [hrow, TypeRow.length] at hl
    | _ => rfl

/-- Settles O47: each arm of R100's chain passes the tests its instruction stands for, and a byte that selects TYPE_UNKNOWN
has no length. -/
theorem decodedInstructionsAreWellFormed : Obligations.DecodedInstructionsAreWellFormed :=
  fun p c op t => ⟨decodeOp_wellFormed p c op, typeRow_instr_wellFormed p t⟩

/-- Settles O48: the fixed words are evaluated. -/
theorem tableWordsDecode : Obligations.TableWordsDecode := by
  unfold Obligations.TableWordsDecode
  decide

/-! ### The lanes a transaction reads -/

theorem declared_congr {f g : Fragment} (hcount : f.count = g.count)
    (hlanes : ∀ i : Fin 19, i.val < f.count.toNat → f.lanes[i] = g.lanes[i]) : f.declared = g.declared := by
  unfold Fragment.declared
  rw [← hcount]
  apply List.ext_getElem (by simp)
  intro i hi _
  simp only [List.length_take, Vector.length_toList, lt_min_iff] at hi
  simpa using hlanes ⟨i, hi.2⟩ hi.1

theorem malformed_congr {f g : Fragment} (herr : f.err = g.err) (hcount : f.count = g.count) :
    f.malformed = g.malformed := by
  rw [Fragment.malformed, herr, hcount, Fragment.malformed]

/-- The marker test reads lane 0, and under GATE_MARKER_BY_COUNT only where it is declared (R73). -/
theorem marker_congr {f g : Fragment} {p : Config.Params} (hcount : f.count = g.count)
    (hlane : 1 ≤ f.count.toNat → f.lanes[0] = g.lanes[0])
    (hgate : p.gateMarkerByCount = true ∨ 1 ≤ f.count.toNat ∨ f.lanes[0] = g.lanes[0]) : f.marker p = g.marker p := by
  by_cases heq : f.lanes[0] = g.lanes[0]
  · rw [Fragment.marker, heq, hcount, Fragment.marker]
  · have hnone : ¬ 1 ≤ f.count.toNat := fun hc => heq (hlane hc)
    have hgated : p.gateMarkerByCount = true := by tauto
    simp [Fragment.marker, ← hcount, hnone, hgated]

/-- Settles O39: the chain of R100 reads a fragment by its two tests and its declared bytes only (`transact_frag`). -/
theorem undeclaredLanesAreNeverRead : Obligations.UndeclaredLanesAreNeverRead := by
  intro f g s hgate herr hcount hlanes
  have hmarker : f.marker s.params = g.marker s.params := marker_congr hcount (hlanes 0) hgate
  rw [transact_frag, transact_frag, malformed_congr herr hcount, hmarker, execFragInsync, execFragInsync,
    declared_congr hcount hlanes]

end Sys2Proof.Proofs
end

section
/-! PROOFS. The operations on a state: markers (40_assembler.md R104), APPEND (R107), the in-sync fragment while its frame
goes on (R106, R112, R118), and TYPE_UNKNOWN and DISPATCH (R109, 42_dispatch.md R140, R147). -/

namespace Sys2Proof.Proofs

open Sys2Proof.Machine Sys2Proof.Claims

/-! ### Markers -/

theorem exec_fragMarker (f : Fragment) (s : State) :
    exec (.fragMarker f) s = .next { s with syncCnt := s.syncCnt + 1 } := rfl

/-- Settles O4: at SYNC_CNT 0 and 1 a marker passes the marker test of R100's chain and none before it. -/
theorem markerFragmentCounts : Obligations.MarkerFragmentCounts := by
  intro f s
  refine ⟨exec_fragMarker f s, fun hgood hmark hc => transact_of_decodeOp ?_, fun hc => ?_, fun hc => ?_⟩
  · rw [goodFragment_iff] at hgood
    rw [← marker_iff_isMarker] at hmark
    rcases hc with hc | hc <;> simp [decodeOp_frag, hgood, hmark, hc]
  · rw [exec_fragMarker, hc]; rfl
  · rw [exec_fragMarker, hc]; rfl

/-! ### APPEND -/

theorem append_eq_more {s : State} (v : Byte) (hl : s.bufLen.toNat < 20) : append v s = .more (s.appended v) :=
  if_pos hl

theorem appended_bufLen_toNat {s : State} (v : Byte) (hl : s.bufLen.toNat < 20) :
    (s.appended v).bufLen.toNat = s.bufLen.toNat + 1 := by
  rw [State.appended_bufLen, BitVec.toNat_add]
  exact Nat.mod_eq_of_lt (by simp; omega)

theorem bufRead_of_ge {s : State} {i : Nat} (h : s.bufLen.toNat ≤ i) : s.bufRead i = none :=
  if_neg (Nat.not_lt.mpr h)

theorem appended_bufRead_same {s : State} (v : Byte) (hl : s.bufLen.toNat < 20) :
    (s.appended v).bufRead s.bufLen.toNat = some v := by
  rw [State.bufRead, appended_bufLen_toNat v hl, if_pos (Nat.lt_succ_self _)]
  exact Memory.read_write_same ..

/-- Below BUF_LEN an append writes nothing, and above the new byte nothing is readable. -/
theorem appended_bufRead_other {s : State} (v : Byte) (hl : s.bufLen.toNat < 20) {a : Nat} (ha : a ≠ s.bufLen.toNat) :
    (s.appended v).bufRead a = s.bufRead a := by
  rw [State.bufRead, appended_bufLen_toNat v hl, State.appended_buf, Memory.read_write_other _ _ ha, State.bufRead]
  by_cases hlt : a < s.bufLen.toNat
  · rw [if_pos hlt, if_pos (Nat.lt_succ_of_lt hlt)]
  · rw [if_neg hlt, if_neg (by omega)]

/-- Settles O21: the state after APPEND is `appended`, whose reads are those after a write of BUF. -/
theorem appendStoresAtBufLen : Obligations.AppendStoresAtBufLen := by
  intro v s hl
  exact ⟨_, append_eq_more v hl, appended_bufRead_same v hl, fun _ => appended_bufRead_other v hl,
    appended_bufLen_toNat v hl, rfl, rfl, rfl, ⟨rfl, rfl⟩, ⟨rfl, rfl, rfl, rfl, rfl, rfl, rfl, rfl⟩⟩

/-! ### The in-sync fragment -/

theorem exec_fragInsync (f : Fragment) {s : State} (h : FramingInv s) :
    exec (.fragInsync f) s = .next (insyncOutcome (soFar f s) s) :=
  execFragInsync_eq f h

theorem transact_frag_insync {f : Fragment} {s : State} (hgood : GoodFragment f) (hc : s.syncCnt = 2) :
    transact (.frag f) s = exec (.fragInsync f) s :=
  transact_of_decodeOp (decodeOp_frag_insync _ ((goodFragment_iff f).mp hgood) hc)

/-- Settles O9: with nothing declared the byte loop ends at once. -/
theorem emptyInSyncFragmentHasNoEffect : Obligations.EmptyInSyncFragmentHasNoEffect := by
  intro f s hcount
  have hnone : f.declared = [] := by rw [Fragment.declared, hcount]; rfl
  have hexec : exec (.fragInsync f) s = .next s := by
    show byteLoop f.declared s = _
    rw [hnone, byteLoop]
  refine ⟨hexec, fun herr hc => ?_⟩
  have hgood : GoodFragment f := ⟨herr, by rw [hcount]; decide⟩
  rw [transact_frag_insync hgood hc, hexec]

theorem sameRest_of_kept {s t : State} (h : Kept s t) : SameRest s t :=
  ⟨h.busy, h.pend, h.params, h.inputs, h.offer, h.remaining, h.latChoice, h.freeIdx⟩

/-- Settles O10: under the framing invariants the loop answers a state (`exec_fragInsync`), and whatever state it answers
came quietly or with one event (`byteLoop_cases`). -/
theorem inSyncFragmentAlwaysCompletes : Obligations.InSyncFragmentAlwaysCompletes := by
  intro f s hinv
  have hexec := exec_fragInsync f hinv
  have htransact (hgood : GoodFragment f) (hc : s.syncCnt = 2) := (transact_frag_insync hgood hc).trans hexec
  rcases byteLoop_cases f.declared hexec with hquiet | ⟨c, hrep⟩
  · exact ⟨_, hexec, sameRest_of_kept hquiet.kept, htransact, .inl hquiet.csumErrCnt⟩
  · refine ⟨_, hexec, sameRest_of_kept hrep.kept, htransact, ?_⟩
    by_cases hc : c = .csumErr
    · exact .inr ⟨by rw [hrep.csumErrCnt, if_pos hc], hrep.evValid, by rw [hrep.code, hc]; rfl⟩
    · exact .inl (by rw [hrep.csumErrCnt, if_neg hc])

/-- The bytes so far do not complete their frame: the hypothesis of R112. -/
def Incomplete (all : List Byte) : Prop :=
  all.length ≤ 2 ∨ ∃ n, lenTable (all.getD 1 0) = some n ∧ all.length < n.toNat

theorem Incomplete.inProgress {all : List Byte} (h : Incomplete all) : ∃ e, InProgress all e := by
  by_cases hshort : all.length ≤ 2
  · exact ⟨0, .inl ⟨rfl, hshort⟩⟩
  · obtain ⟨n, htab, hlt⟩ := h.resolve_left hshort
    exact ⟨n, .inr ⟨lenTable_ne_zero htab, by omega, hlt, htab⟩⟩

/-- Bytes of a frame in progress are stored, with their EXP_LEN, and that is all. -/
theorem InProgress.insyncOutcome_eq {all : List Byte} {e : BitVec 5} (h : InProgress all e) (s : State) :
    insyncOutcome all s = s.accumulated all e := by
  rcases h with ⟨rfl, hshort⟩ | ⟨-, hthree, hlt, htab⟩
  · exact insyncOutcome_short s hshort
  · exact insyncOutcome_incomplete s hthree htab hlt

theorem InProgress.expLen_eq {all : List Byte} {e : BitVec 5} (h : InProgress all e) :
    if all.length ≤ 2 then e = 0 else lenTable (all.getD 1 0) = some e := by
  rcases h with ⟨rfl, hshort⟩ | ⟨-, hthree, -, htab⟩
  · rw [if_pos hshort]
  · rwa [if_neg (by omega)]

/-- Settles O11: the outcome is the old bytes followed by the new ones (`InProgress.insyncOutcome_eq`); what BUF reads
before and after is read off the two byte lists. -/
theorem incompleteFragmentIsKept : Obligations.IncompleteFragmentIsKept := by
  intro f s hinv hinc
  obtain ⟨e, hprogress⟩ := Incomplete.inProgress hinc
  have hold : Holds s (bytesOf s) := holds_of_written hinv.written
  have hnew : Holds (s.accumulated (soFar f s) e) (soFar f s) := (accumulated_buffering s hprogress).1
  have hexec := (exec_fragInsync f hinv).trans (congrArg _ (hprogress.insyncOutcome_eq s))
  refine ⟨_, hexec, rfl, rfl, ⟨rfl, rfl⟩, ⟨rfl, rfl, rfl, rfl, rfl, rfl, rfl, rfl⟩, ?_, fun a ha => ?_,
    fun i => ?_, hprogress.expLen_eq⟩
  · rw [hnew.len, hold.len, soFar, List.length_append]
  · rw [hnew.bufRead, hold.bufRead, soFar, List.getElem?_append_left (hold.len ▸ ha)]
  · rw [hnew.bufRead, hold.len, soFar, List.getElem?_append_right (Nat.le_add_right _ _), Nat.add_sub_cancel_left]

/-! ### TYPE_UNKNOWN and DISPATCH -/

theorem exec_typeUnknown_known {s : State} (t : Byte) (he : s.expLen ≠ 0) :
    exec (.typeUnknown t) s = .fault .unknownTypeAtDispatch :=
  if_pos (expKnown_eq_true he)

theorem exec_typeUnknown_lookup {s : State} (t : Byte) (he : s.expLen = 0) :
    exec (.typeUnknown t) s = unknownTypeDiscard t s :=
  if_neg (by rw [expKnown_eq_false he]; decide)

/-- Settles O19: with EXP_LEN known the row faults, and the in-sync fragment answers a next state, which is no fault. -/
theorem unknownTypeRowFaultsAtDispatch : Obligations.UnknownTypeRowFaultsAtDispatch := by
  refine ⟨fun t s he => exec_typeUnknown_known t he, fun f s hinv => ?_⟩
  rw [exec_fragInsync f hinv]
  nofun

theorem bufBlock_three (s : State) {b0 b1 b2 : Byte} (h0 : s.bufRead 0 = some b0) (h1 : s.bufRead 1 = some b1)
    (h2 : s.bufRead 2 = some b2) : s.bufBlock 0 3 = some [b0, b1, b2] := by
  simp only [State.bufBlock, h0, h1, h2]

/-- Settles O18: the three bytes are read and the record of R150 is emitted with the frame reset. -/
theorem unknownTypeRowDiscardsAtLookup : Obligations.UnknownTypeRowDiscardsAtLookup := by
  intro t b0 b1 b2 s he h0 h1 h2
  rw [exec_typeUnknown_lookup t he, unknownTypeDiscard, Config.lookupAt, bufBlock_three s h0 h1 h2]
  rfl

/-- A block of BUF that reaches BUF_LEN has no value (10_state.md R22). -/
theorem bufBlock_eq_none {s : State} (n : Nat) : ∀ {i : Nat}, s.bufLen.toNat < i + n → i ≤ s.bufLen.toNat →
    s.bufBlock i n = none := by
  induction n with
  | zero => intro i hlt hle; omega
  | succ n ih =>
    intro i hlt hle
    rw [State.bufBlock]
    cases hread : s.bufRead i with
    | none => rfl
    | some b =>
      have hbelow : i < s.bufLen.toNat := by
        by_contra hge
        rw [bufRead_of_ge (Nat.not_lt.mp hge)] at hread
        cases hread
      simp only [ih (i := i + 1) (by omega) hbelow]

/-- Settles O22: `bufRead` tests the index, and the three bytes that the lookup copies reach BUF_LEN. -/
theorem unwrittenEntriesHaveNoValue : Obligations.UnwrittenEntriesHaveNoValue := by
  refine fun s => ⟨fun i => bufRead_of_ge, fun t he hle => ?_⟩
  rw [exec_typeUnknown_lookup t he, unknownTypeDiscard, Config.lookupAt, bufBlock_eq_none 3 (by omega) (Nat.zero_le _)]

theorem dispatch_of_frmType {s : State} {t : Byte} (h : s.record.frmType = t) : dispatch s = runTypeRow (typeRow t) s := by
  rw [dispatch, h]

/-- Settles O17: a known type byte has its own row, which runs as the instruction of that row; any other byte has no length,
so that DISPATCH faults (`dispatch_unknown`). -/
theorem dispatchRunsTheRowOfTheType : Obligations.DispatchRunsTheRowOfTheType := by
  refine fun s => ⟨dispatch_of_frmType, dispatch_of_frmType, dispatch_of_frmType, dispatch_of_frmType,
    dispatch_of_frmType, dispatch_of_frmType, fun hother he => dispatch_unknown ?_ he⟩
  have hrow := typeRow_of_not_mem fun hmem => hother _ hmem rfl
  rw [lenTable, hrow, TypeRow.length]

end Sys2Proof.Proofs
end

section
/-! PROOFS. What every edge does from every state: the counter (10_state.md R27, 41_validator.md R133), and the events with
their recovery, codes and selects (60_exceptions.md R200, R206, 42_dispatch.md R154). -/

namespace Sys2Proof.Proofs

open Sys2Proof.Machine Sys2Proof.Claims

/-! ### The event of an edge -/

/-- What an edge does to the event and the counter: RESET clears both; or a malformed fragment is reported; or a frame's
event `c` is, with its recovery; or nothing is reported. -/
theorem step_event_cases {s t : State} (h : step s = .next t) :
    (s.portIn.rst = true ∧ t.evValid = false ∧ t.csumErrCnt = 0) ∨
    (s.portIn.rst = false ∧ t = (s.beginEdge.emit recMalformed).retire) ∨
    (s.portIn.rst = false ∧ ∃ c u, Reported s.beginEdge u c ∧ t = u.retire) ∨
    (s.portIn.rst = false ∧ t.evValid = false ∧ t.csumErrCnt = s.csumErrCnt) := by
  rcases step_cases h with ⟨hr, rfl⟩ | ⟨hr, -, -, u, hu, rfl⟩ | ⟨hr, -, rfl⟩
  · exact .inl ⟨hr, rfl, rfl⟩
  · right
    rcases transact_frag_cases hu with
      ⟨-, rfl⟩ | ⟨-, -, hquiet | ⟨c, hrep⟩⟩ | ⟨-, -, -, rfl⟩ | ⟨-, -, -, rfl⟩ | ⟨-, -, -, rfl⟩
    · exact .inl ⟨hr, rfl⟩
    · exact .inr (.inr ⟨hr, hquiet.evValid, hquiet.csumErrCnt⟩)
    · exact .inr (.inl ⟨hr, c, u, hrep, rfl⟩)
    · exact .inr (.inr ⟨hr, rfl, rfl⟩)
    · exact .inr (.inr ⟨hr, rfl, rfl⟩)
    · exact .inr (.inr ⟨hr, rfl, rfl⟩)
  · refine .inr (.inr (.inr ⟨hr, quietEdge_evValid s, ?_⟩))
    rcases quietEdge_cases s with ⟨-, hq⟩ | ⟨-, -, hq⟩ | ⟨-, -, hq⟩ <;> rw [hq] <;> rfl

/-- The two kinds of events an edge can report. -/
theorem step_event_of_evValid {s t : State} (h : step s = .next t) (he : t.evValid = true) :
    t = (s.beginEdge.emit recMalformed).retire ∨ ∃ c u, Reported s.beginEdge u c ∧ t = u.retire := by
  rcases step_event_cases h with ⟨-, hf, -⟩ | ⟨-, hmal⟩ | ⟨-, hrep⟩ | ⟨-, hf, -⟩
  · simp [hf] at he
  · exact .inl hmal
  · exact .inr hrep
  · simp [hf] at he

theorem framingCleared_of_reported {s u : State} {c : EventCode} (h : Reported s u c) : FramingCleared u.retire := by
  refine ⟨h.syncCnt, h.bufLen, h.expLen, fun a => bufRead_of_ge ?_⟩
  rw [State.retire_bufLen, h.bufLen]
  exact Nat.zero_le a

theorem bits_ne_of_ne {c d : EventCode} (h : c ≠ d) : c.bits ≠ d.bits := fun hbits => h (eventCode_bits_inj hbits)

/-- Settles O34: of the four things an edge does only the event CSUM_ERR counts, and RESET clears. -/
theorem counterChangesOnlyOnMismatch : Obligations.CounterChangesOnlyOnMismatch := by
  intro s t h
  rcases step_event_cases h with ⟨hr, -, hcnt⟩ | ⟨hr, rfl⟩ | ⟨hr, c, u, hrep, rfl⟩ | ⟨hr, hf, hcnt⟩
  · exact .inl ⟨hr, hcnt⟩
  · exact .inr (.inr ⟨hr, fun ⟨_, hcode⟩ => absurd hcode (by decide : recMalformed.evCode ≠ 2), rfl⟩)
  · right
    have hcnt := hrep.csumErrCnt
    by_cases hc : c = .csumErr
    · rw [if_pos hc] at hcnt
      exact .inl ⟨hr, hrep.evValid, by rw [State.retire_record, hrep.code, hc]; rfl, hcnt⟩
    · rw [if_neg hc] at hcnt
      exact .inr ⟨hr, fun ⟨_, hcode⟩ => bits_ne_of_ne hc (hrep.code.symm.trans hcode), hcnt⟩
  · exact .inr (.inr ⟨hr, fun ⟨he, _⟩ => by simp [hf] at he, hcnt⟩)

/-- Settles O35: MALFORMED is an `emit` and nothing else; every other event is `Reported` with the framing group reset. -/
theorem eventsRecoverInTheSameStep : Obligations.EventsRecoverInTheSameStep := by
  intro s t h he
  rcases step_event_of_evValid h he with rfl | ⟨c, u, hrep, rfl⟩
  · exact .inl ⟨rfl, ⟨rfl, rfl, rfl, fun _ => rfl⟩, rfl⟩
  · refine .inr ⟨fun hcode => bits_ne_of_ne hrep.notMalformed ?_, framingCleared_of_reported hrep⟩
    exact hrep.code.symm.trans hcode

/-- Settles O36: `Reported` gives FRAME_OK a one-hot select and every other event none. -/
theorem exactlyOneDecoderOnFrameOk : Obligations.ExactlyOneDecoderOnFrameOk := by
  intro s t h he
  rcases step_event_of_evValid h he with rfl | ⟨c, u, hrep, rfl⟩
  · exact ⟨fun hcode => absurd hcode (by decide : recMalformed.evCode ≠ 1), fun _ => rfl⟩
  · have hsel := hrep.sel
    by_cases hc : c = .frameOk
    · rw [if_pos hc] at hsel
      exact ⟨fun _ => List.contains_iff_mem.mp hsel, fun hcode => absurd (hrep.code.trans (hc ▸ rfl)) hcode⟩
    · rw [if_neg hc] at hsel
      exact ⟨fun hcode => absurd (hrep.code.symm.trans hcode) (bits_ne_of_ne hc), fun _ => hsel⟩

theorem eventOfBits_bits (c : EventCode) : eventOfBits c.bits = some c := by cases c <;> rfl

/-- A host that samples an event of R200 meets no fault. -/
theorem observeEvent_of_code {t : State} {c : EventCode} (h : t.record.evCode = c.bits) :
    ∃ o, t.observeEvent = .ok o := by
  rw [State.observeEvent, h, eventOfBits_bits]
  split <;> exact ⟨_, rfl⟩

/-- Every event has a code of R200, and OVERRUN comes under DISCARD only. -/
theorem step_event_code {s t : State} (h : step s = .next t) (he : t.evValid = true) :
    ∃ c : EventCode, t.record.evCode = c.bits ∧ (c = .overrun → s.params.overrunPolicy = .discard) := by
  rcases step_event_of_evValid h he with rfl | ⟨c, u, hrep, rfl⟩
  · exact ⟨.malformed, rfl, nofun⟩
  · exact ⟨c, hrep.code, hrep.overrun⟩

/-- Settles O37: the code is that of an event of R200 (`step_event_code`), and those are 1 to 5. -/
theorem reservedEventCodesNeverProduced : Obligations.ReservedEventCodesNeverProduced := by
  intro s t h he
  obtain ⟨c, hcode, hoverrun⟩ := step_event_code h he
  refine ⟨?_, fun hfive => hoverrun ?_, observeEvent_of_code hcode⟩
  · rw [hcode]
    cases c <;> decide
  · exact eventCode_bits_inj (hcode.symm.trans hfive)

end Sys2Proof.Proofs
end

section
/-! PROOFS. Runs of transactions (40_assembler.md section 4): a frame needs two markers before it (R115), and its event does
not depend on how its bytes are split (R116). -/

namespace Sys2Proof.Proofs

open Sys2Proof.Machine Sys2Proof.Claims

/-! ### Runs of operations -/

/-- A run answers exactly when its two parts do, one after the other. -/
theorem runOps_append_iff {ops more : List Op} : ∀ {s v : State},
    runOps (ops ++ more) s = .next v ↔ ∃ u, runOps ops s = .next u ∧ runOps more u = .next v := by
  induction ops with
  | nil => intro s v; simp [runOps]
  | cons op ops ih =>
    intro s v
    rw [List.cons_append, runOps, runOps]
    cases transaction op s with
    | next w => exact ih
    | fault e => simp
    | refused e => simp

theorem runOps_singleton (op : Op) (s : State) : runOps [op] s = transaction op s := by
  rw [runOps]
  cases transaction op s <;> rfl

/-- The last transaction of a run of fragments. -/
theorem runOps_frags_concat {fs : List Fragment} {g : Fragment} {s v : State} :
    runOps ((fs ++ [g]).map .frag) s = .next v ↔
      ∃ u, runOps (fs.map .frag) s = .next u ∧ transaction (.frag g) u = .next v := by
  rw [List.map_append, runOps_append_iff]
  simp only [List.map_singleton, runOps_singleton]

theorem runOps_frags_params {fs : List Fragment} : ∀ {s u : State}, runOps (fs.map .frag) s = .next u →
    u.params = s.params := by
  induction fs using List.reverseRecOn with
  | nil =>
    intro s u h
    obtain rfl : s = u := Host.Outcome.next.inj h
    rfl
  | append_singleton fs g ih =>
    intro s v h
    obtain ⟨u, hu, hv⟩ := runOps_frags_concat.mp h
    have hlast : v.params = u.params := (transact_frag_kept hv).params
    exact hlast.trans (ih hu)

/-! ### Two markers before a frame (R115) -/

/-- How SYNC_CNT becomes 1: by a marker at 0, or it was 1 and the fragment is malformed. -/
theorem transaction_syncCnt_one {f : Fragment} {s t : State} (h : transaction (.frag f) s = .next t)
    (ht : t.syncCnt = 1) :
    (s.syncCnt = 0 ∧ GoodFragment f ∧ IsMarker s.params f) ∨ (s.syncCnt = 1 ∧ ¬ GoodFragment f) := by
  simp only [goodFragment_iff, ← marker_iff_isMarker]
  rcases transact_frag_cases h with
    ⟨hm, rfl⟩ | ⟨-, hc, hquiet | ⟨c, hrep⟩⟩ | ⟨-, -, -, rfl⟩ | ⟨hm, hc | hc, hk, rfl⟩ | ⟨-, hc, -, rfl⟩
  · exact .inr ⟨ht, by simp [hm]⟩
  · exact absurd (ht.symm.trans (hquiet.syncCnt.trans hc)) (by decide)
  · exact absurd (ht.symm.trans hrep.syncCnt) (by decide)
  · cases ht
  · exact .inl ⟨hc, hm, hk⟩
  · rw [State.setSyncCnt_syncCnt, hc] at ht
    cases ht
  · exact absurd (ht.symm.trans hc) (by decide)

/-- How SYNC_CNT becomes 2: by a marker at 1, or it was 2. -/
theorem transaction_syncCnt_two {f : Fragment} {s t : State} (h : transaction (.frag f) s = .next t)
    (ht : t.syncCnt = 2) :
    (s.syncCnt = 1 ∧ GoodFragment f ∧ IsMarker s.params f) ∨ s.syncCnt = 2 := by
  simp only [goodFragment_iff, ← marker_iff_isMarker]
  rcases transact_frag_cases h with
    ⟨-, rfl⟩ | ⟨-, hc, -⟩ | ⟨-, -, -, rfl⟩ | ⟨hm, hc | hc, hk, rfl⟩ | ⟨-, hc, -, rfl⟩
  · exact .inr ht
  · exact .inr hc
  · cases ht
  · rw [State.setSyncCnt_syncCnt, hc] at ht
    cases ht
  · exact .inl ⟨hc, hm, hk⟩
  · exact absurd (ht.symm.trans hc) (by decide)

/-- The run ends with a marker taken at SYNC_CNT = 0 and malformed fragments after it. -/
def EndsWithOneMarker (s : State) (fs : List Fragment) : Prop :=
  ∃ (before : List Fragment) (m1 : Fragment) (bad : List Fragment), fs = before ++ m1 :: bad ∧
    (∃ w, runOps (before.map .frag) s = .next w ∧ w.syncCnt = 0) ∧
    GoodFragment m1 ∧ IsMarker s.params m1 ∧ ∀ b ∈ bad, ¬ GoodFragment b

/-- The conclusion of R115: two markers with malformed fragments only between them, and in sync ever since. -/
def TwoMarkersThenInSync (s : State) (fs : List Fragment) : Prop :=
  ∃ (before : List Fragment) (m1 : Fragment) (bad : List Fragment) (m2 : Fragment) (rest : List Fragment),
    fs = before ++ m1 :: bad ++ m2 :: rest ∧
    (∃ w, runOps (before.map .frag) s = .next w ∧ w.syncCnt = 0) ∧
    GoodFragment m1 ∧ IsMarker s.params m1 ∧ (∀ b ∈ bad, ¬ GoodFragment b) ∧
    GoodFragment m2 ∧ IsMarker s.params m2 ∧
    ∀ k, ∃ w, runOps ((before ++ m1 :: bad ++ m2 :: rest.take k).map .frag) s = .next w ∧ w.syncCnt = 2

theorem EndsWithOneMarker.of_marker {s w : State} {fs : List Fragment} {g : Fragment}
    (hrun : runOps (fs.map .frag) s = .next w) (hc : w.syncCnt = 0) (hgood : GoodFragment g)
    (hmark : IsMarker s.params g) : EndsWithOneMarker s (fs ++ [g]) :=
  ⟨fs, g, [], rfl, ⟨w, hrun, hc⟩, hgood, hmark, nofun⟩

theorem EndsWithOneMarker.malformed {s : State} {fs : List Fragment} {g : Fragment} (h : EndsWithOneMarker s fs)
    (hbad : ¬ GoodFragment g) : EndsWithOneMarker s (fs ++ [g]) := by
  obtain ⟨before, m1, bad, rfl, hbefore, hgood, hmark, hbads⟩ := h
  refine ⟨before, m1, bad ++ [g], by simp, hbefore, hgood, hmark, fun b hb => ?_⟩
  rcases List.mem_append.mp hb with hb | hb
  · exact hbads b hb
  · exact List.mem_singleton.mp hb ▸ hbad

theorem EndsWithOneMarker.marker {s v : State} {fs : List Fragment} {g : Fragment} (h : EndsWithOneMarker s fs)
    (hgood : GoodFragment g) (hmark : IsMarker s.params g) (hrun : runOps ((fs ++ [g]).map .frag) s = .next v)
    (hc : v.syncCnt = 2) : TwoMarkersThenInSync s (fs ++ [g]) := by
  obtain ⟨before, m1, bad, rfl, hbefore, hgood1, hmark1, hbads⟩ := h
  exact ⟨before, m1, bad, g, [], rfl, hbefore, hgood1, hmark1, hbads, hgood, hmark,
    fun k => ⟨v, by rwa [List.take_nil], hc⟩⟩

theorem TwoMarkersThenInSync.inSync {s v : State} {fs : List Fragment} {g : Fragment} (h : TwoMarkersThenInSync s fs)
    (hrun : runOps ((fs ++ [g]).map .frag) s = .next v) (hc : v.syncCnt = 2) : TwoMarkersThenInSync s (fs ++ [g]) := by
  obtain ⟨before, m1, bad, m2, rest, rfl, hbefore, hgood1, hmark1, hbads, hgood2, hmark2, hall⟩ := h
  refine ⟨before, m1, bad, m2, rest ++ [g], by simp, hbefore, hgood1, hmark1, hbads, hgood2, hmark2, fun k => ?_⟩
  by_cases hk : k ≤ rest.length
  · rw [List.take_append_of_le_length hk]
    exact hall k
  · have htake : (rest ++ [g]).take k = rest ++ [g] := List.take_of_length_le (by simp; omega)
    exact ⟨v, by rw [htake]; simpa using hrun, hc⟩

/-- Where a run from SYNC_CNT = 0 has come to, by what it consists of. -/
theorem runOps_from_searching {s : State} (hs : s.syncCnt = 0) {fs : List Fragment} : ∀ {u : State},
    runOps (fs.map .frag) s = .next u →
    (u.syncCnt = 1 → EndsWithOneMarker s fs) ∧ (u.syncCnt = 2 → TwoMarkersThenInSync s fs) := by
  induction fs using List.reverseRecOn with
  | nil =>
    intro u h
    obtain rfl : s = u := Host.Outcome.next.inj h
    exact ⟨fun hc => by simp [hs] at hc, fun hc => by simp [hs] at hc⟩
  | append_singleton fs g ih =>
    intro v h
    obtain ⟨u, hu, hv⟩ := runOps_frags_concat.mp h
    obtain ⟨hone, htwo⟩ := ih hu
    have hparams : u.params = s.params := runOps_frags_params hu
    refine ⟨fun hc => ?_, fun hc => ?_⟩
    · rcases transaction_syncCnt_one hv hc with ⟨hc0, hgood, hmark⟩ | ⟨hc1, hbad⟩
      · exact .of_marker hu hc0 hgood (hparams ▸ hmark)
      · exact (hone hc1).malformed hbad
    · rcases transaction_syncCnt_two hv hc with ⟨hc1, hgood, hmark⟩ | hc2
      · exact (hone hc1).marker hgood (hparams ▸ hmark) h hc
      · exact (htwo hc2).inSync h hc

/-- FRAME_OK, CSUM_ERR and OVERRUN come of a well-formed fragment in sync. -/
theorem transaction_frame_event {g : Fragment} {u v : State} (h : transaction (.frag g) u = .next v)
    (he : v.evValid = true) (hcode : v.record.evCode ≠ 4) : GoodFragment g ∧ u.syncCnt = 2 := by
  rcases transact_frag_event h rfl he with hm | ⟨hm, hc, -⟩
  · rw [transaction, transact_of_decodeOp (decodeOp_frag_malformed _ _ hm)] at h
    obtain rfl : u.clearEvent.emit recMalformed = v := Host.Outcome.next.inj h
    exact absurd rfl hcode
  · exact ⟨(goodFragment_iff g).mpr hm, hc⟩

/-- Settles O44: the fragment that ends a frame is in sync (`transaction_frame_event`), and a run from SYNC_CNT = 0 that is
in sync consists of what R115 says (`runOps_from_searching`, by induction on the run from its end). -/
theorem framesNeedTwoMarkers : Obligations.FramesNeedTwoMarkers := by
  intro fs g s u v hs hrun hv he hcode
  have hframe : v.record.evCode ≠ 4 := by
    rcases hcode with hcode | hcode | hcode <;> rw [hcode] <;> decide
  obtain ⟨hgood, hc⟩ := transaction_frame_event hv he hframe
  exact ⟨hgood, (runOps_from_searching hs hrun).2 hc⟩

/-! ### One frame, however it is split (R116) -/

/-- The declared bytes of the well-formed fragments, in order. -/
def goodBytes (fs : List Fragment) : List Byte := ((fs.filter fun f => !f.malformed).map Fragment.declared).flatten

/-- The bytes the Assembler takes from a fragment in sync: none from a malformed one. -/
def acceptedBytes (f : Fragment) : List Byte := if f.malformed then [] else f.declared

theorem goodBytes_cons (f : Fragment) (fs : List Fragment) : goodBytes (f :: fs) = acceptedBytes f ++ goodBytes fs := by
  unfold goodBytes acceptedBytes
  cases hm : f.malformed <;> simp [hm]

/-- The first bytes of an incomplete frame are incomplete. -/
theorem Incomplete.of_append {all more : List Byte} (h : Incomplete (all ++ more)) : Incomplete all := by
  rcases Nat.lt_or_ge 2 all.length with hlong | hshort
  · obtain ⟨n, htab, hlt⟩ := h.resolve_left (by rw [List.length_append]; omega)
    rw [getD_append_one hlong.le] at htab
    exact .inr ⟨n, htab, Nat.lt_of_le_of_lt (by rw [List.length_append]; omega) hlt⟩
  · exact .inl hshort

/-- `t` is in sync with these bytes buffered, and has the counter and the parameters of `s`. -/
structure Collecting (s : State) (bytes : List Byte) (t : State) : Prop where
  buffering : Buffering t bytes
  syncCnt : t.syncCnt = 2
  csumErrCnt : t.csumErrCnt = s.csumErrCnt
  params : t.params = s.params

/-- A malformed fragment changes nothing of a frame in progress, a well-formed one appends its declared bytes. -/
theorem Collecting.transaction {s t : State} {bytes : List Byte} (h : Collecting s bytes t) (f : Fragment)
    (hinc : Incomplete (bytes ++ acceptedBytes f)) :
    ∃ u, transaction (.frag f) t = .next u ∧ Collecting s (bytes ++ acceptedBytes f) u := by
  have hsame : Buffering t.clearEvent bytes := ⟨⟨h.buffering.1.cells, h.buffering.1.len⟩, h.buffering.2⟩
  cases hm : f.malformed with
  | true =>
    have hnone : acceptedBytes f = [] := if_pos hm
    rw [hnone, List.append_nil]
    exact ⟨t.clearEvent.emit recMalformed, transact_of_decodeOp (decodeOp_frag_malformed _ _ hm),
      ⟨⟨hsame.1.cells, hsame.1.len⟩, hsame.2⟩, h.syncCnt, h.csumErrCnt, h.params⟩
  | false =>
    have hdeclared : acceptedBytes f = f.declared := if_neg (by rw [hm]; decide)
    rw [hdeclared] at hinc ⊢
    obtain ⟨e, hprogress⟩ := hinc.inProgress
    have hloop : exec (.fragInsync f) t.clearEvent = .next (t.clearEvent.accumulated (bytes ++ f.declared) e) :=
      (byteLoop_eq f.declared hsame).trans (congrArg _ (hprogress.insyncOutcome_eq t.clearEvent))
    exact ⟨_, (transact_frag_insync (s := t.clearEvent) ((goodFragment_iff f).mpr hm) h.syncCnt).trans hloop,
      accumulated_buffering t.clearEvent hprogress, h.syncCnt, h.csumErrCnt, h.params⟩

theorem Collecting.runOps {s : State} {fs : List Fragment} : ∀ {t : State} {bytes : List Byte}, Collecting s bytes t →
    Incomplete (bytes ++ goodBytes fs) →
    ∃ u, runOps (fs.map .frag) t = .next u ∧ Collecting s (bytes ++ goodBytes fs) u := by
  induction fs with
  | nil =>
    intro t bytes h _
    exact ⟨t, rfl, (List.append_nil bytes).symm ▸ h⟩
  | cons f fs ih =>
    intro t bytes h hinc
    rw [goodBytes_cons, ← List.append_assoc] at hinc ⊢
    obtain ⟨w, hw, hcollect⟩ := h.transaction f hinc.of_append
    obtain ⟨u, hu, hcollect'⟩ := ih hcollect hinc
    refine ⟨u, ?_, hcollect'⟩
    rw [List.map_cons, Machine.runOps, hw]
    exact hu

theorem collecting_of_fresh {s : State} (h : FreshInSync s) : Collecting s [] s := by
  obtain ⟨hsync, hbuf, hlen, hexp⟩ := h
  exact ⟨⟨⟨hbuf, by rw [hlen]; rfl⟩, .inl ⟨hexp, by decide⟩⟩, hsync, rfl, rfl⟩

/-- The state in which the completing fragment finds the frame. -/
theorem Collecting.soFar_eq {s t : State} {bytes : List Byte} (h : Collecting s bytes t) (g : Fragment) :
    soFar g t.clearEvent = bytes ++ g.declared :=
  congrArg (· ++ g.declared) h.buffering.1.bytes_eq

theorem incomplete_of_completes {bytes more : List Byte} {n : BitVec 5}
    (htab : lenTable ((bytes ++ more).getD 1 0) = some n) (hlt : bytes.length < n.toNat) : Incomplete bytes := by
  rcases Nat.lt_or_ge 2 bytes.length with hlong | hshort
  · exact .inr ⟨n, by rwa [getD_append_one hlong.le] at htab, hlt⟩
  · exact .inl hshort

theorem Collecting.framingInv {s t : State} {bytes : List Byte} (h : Collecting s bytes t) : FramingInv t.clearEvent :=
  framingInv_congr (framingInv_of_buffering h.buffering h.syncCnt) rfl rfl rfl rfl

/-- Settles O45: before the completing fragment the frame is in progress with the well-formed fragments' bytes, however they
were split (`Collecting.runOps`); that fragment then ends the frame as R152, R148 or R149 says of the bytes so far. -/
theorem frameIsIndependentOfFragmentation : Obligations.FrameIsIndependentOfFragmentation := by
  intro fs g s n hfresh bytes hgood htab hlt hreach frame
  obtain ⟨w, hrun, hcollect⟩ := (collecting_of_fresh hfresh).runOps (incomplete_of_completes htab hlt)
  have hinv := hcollect.framingInv
  have hall : soFar g w.clearEvent = bytes ++ g.declared := hcollect.soFar_eq g
  have hcompletes : Completes g w.clearEvent n := by rw [Completes, hall]; exact ⟨htab, hreach⟩
  have hframe : frameOf g w.clearEvent n = frame := congrArg (List.take n.toNat) hall
  have hsurplus : surplusOf g w.clearEvent n = decide (n.toNat < (bytes ++ g.declared).length) := by
    rw [surplusOf, hall]
  have hpolicy : w.clearEvent.params = s.params := hcollect.params
  have hcount : w.clearEvent.csumErrCnt = s.csumErrCnt := hcollect.csumErrCnt
  have hlast {t : State} (ht : exec (.fragInsync g) w.clearEvent = .next t) :
      runOps ((fs ++ [g]).map .frag) s = .next t := by
    have hstart := transact_frag_insync (s := w.clearEvent) hgood hcollect.syncCnt
    exact runOps_frags_concat.mpr ⟨w, hrun, hstart.trans ht⟩
  by_cases hd : surplusOf g w.clearEvent n = true ∧ w.clearEvent.params.overrunPolicy = .discard
  · obtain ⟨t, hexec, hcleared, hcnt, -, he, hcode, hsur, htype, hcarries, hfields⟩ :=
      surplusUnderDiscardOverruns g w.clearEvent n hinv hcompletes hd.1 hd.2
    rw [hframe] at htype hcarries
    refine ⟨t, hlast hexec, he, hcleared, hcarries, htype, ?_, ?_⟩
    · rw [hsur, ← hsurplus, hd.1]
    · rw [if_pos ⟨hsur, hpolicy ▸ hd.2⟩]
      obtain ⟨hrx, hcalc, hsel, hflush, hbat⟩ := hfields
      exact ⟨hcode, hrx, hcalc, hsel, hflush, hbat, hcnt.trans hcount⟩
  · by_cases hsum : received (frameOf g w.clearEvent n) = summed (frameOf g w.clearEvent n)
    · obtain ⟨t, hexec, hcleared, hcnt, -, he, hcode, hsur, htype, -, hcarries, hrx, hcalc, hsel, hflush, hbat⟩ :=
        matchingFrameIsDispatched g w.clearEvent n hinv hcompletes hd hsum
      rw [hframe] at htype hcarries hrx hsum hbat
      refine ⟨t, hlast hexec, he, hcleared, hcarries, htype, hsur.trans hsurplus, ?_⟩
      rw [if_neg (by rwa [hsur, ← hpolicy]), if_pos hsum]
      exact ⟨hcode, hrx, hcalc, hsel, hflush, hbat, hcnt.trans hcount⟩
    · obtain ⟨t, hexec, hcleared, hcnt, -, he, hcode, hsur, htype, hcarries, hrx, hcalc, hsel, hflush, hbat⟩ :=
        mismatchingFrameIsCounted g w.clearEvent n hinv hcompletes hd hsum
      rw [hframe] at htype hcarries hrx hcalc hsum
      refine ⟨t, hlast hexec, he, hcleared, hcarries, htype, hsur.trans hsurplus, ?_⟩
      rw [if_neg (by rwa [hsur, ← hpolicy]), if_neg hsum]
      exact ⟨hcode, hrx, hcalc, hsel, hflush, hbat, by rw [hcnt, hcount]⟩

end Sys2Proof.Proofs
end

section
/-! PROOFS. Numbers: the checksum's sum (41_validator.md R131, R132) and the downstream rounding (43_field_decode.md R161,
R172). -/

namespace Sys2Proof.Proofs

open Sys2Proof.Machine Sys2Proof.Claims

/-! ### The sum of a frame -/

theorem summed_eq_byteSum (frame : List Byte) : summed frame = byteSum (frame.take (frame.length - 2)) :=
  (byteSum_eq_sum _).symm

theorem summed_le (frame : List Byte) : summed frame ≤ 255 * (frame.length - 2) := by
  rw [summed_eq_byteSum]
  refine (byteSum_le _).trans (Nat.mul_le_mul_left 255 ?_)
  exact List.length_take_le _ _

/-- Settles O23: fifteen bytes at most are summed. -/
theorem checksumNeverWraps : Obligations.ChecksumNeverWraps := by
  intro frame hlen
  have hle := summed_le frame
  exact ⟨calcChecksum_toNat hlen, by omega, Nat.mod_eq_of_lt (by omega), Nat.mod_eq_of_lt (by omega)⟩

/-- With the type byte known the other summed bytes are at most 0xFF each. -/
theorem summed_le_of_type {frame : List Byte} {t : Byte} (hlen : 4 ≤ frame.length) (ht : frame.getD 1 0 = t) :
    summed frame ≤ t.toNat + 255 * (frame.length - 3) := by
  obtain ⟨b0, b1, rest, rfl⟩ : ∃ b0 b1 rest, frame = b0 :: b1 :: rest := by
    match frame, hlen with
    | b0 :: b1 :: rest, _ => exact ⟨b0, b1, rest, rfl⟩
  obtain ⟨k, hk⟩ : ∃ k, rest.length = k + 2 := ⟨rest.length - 2, by simp at hlen; omega⟩
  have htake : (b0 :: b1 :: rest).take ((b0 :: b1 :: rest).length - 2) = b0 :: b1 :: rest.take k := by
    simp [hk]
  have hb0 := b0.isLt
  have hrest := byteSum_le (rest.take k)
  have hcount : (rest.take k).length ≤ k := List.length_take_le _ _
  have htype : b1 = t := ht
  rw [summed_eq_byteSum, htake, byteSum, byteSum, htype]
  simp only [List.length_cons, hk]
  omega

/-- A received checksum above every sum of the type never matches. -/
theorem checksum_ne_of_lt {frame : List Byte} (hlen : frame.length ≤ 17) (h : summed frame < received frame) :
    rxChecksum frame ≠ calcChecksum frame := by
  intro hmatch
  have hnat := congrArg BitVec.toNat hmatch
  rw [rxChecksum_toNat, calcChecksum_toNat hlen] at hnat
  omega

theorem received_ge_of_highByte {frame : List Byte} (h : 0x0E < (frame.getD (frame.length - 1) 0).toNat) :
    0x0F00 ≤ received frame := by
  rw [received]
  omega

/-- R132 for one type: `max` is the sum of the type byte and 0xFF everywhere else, and its high byte is 0x0E at most. -/
theorem largestSum_of_type {frame : List Byte} {t : Byte} {len max : Nat} (hlen : frame.length = len)
    (ht : frame.getD 1 0 = t) (hshort : 4 ≤ len ∧ len ≤ 17) (hmax : t.toNat + 255 * (len - 3) = max)
    (hhigh : max < 0x0F00) :
    (calcChecksum frame).toNat ≤ max ∧ (max < received frame → rxChecksum frame ≠ calcChecksum frame) ∧
      (0x0E < (frame.getD (frame.length - 1) 0).toNat → rxChecksum frame ≠ calcChecksum frame) := by
  have hle : summed frame ≤ max := by
    rw [← hmax, ← hlen]
    exact summed_le_of_type (by omega) ht
  have hseventeen : frame.length ≤ 17 := by omega
  refine ⟨by rwa [calcChecksum_toNat hseventeen], fun hgt => ?_, fun hbyte => ?_⟩
  · exact checksum_ne_of_lt hseventeen (by omega)
  · have := received_ge_of_highByte hbyte
    exact checksum_ne_of_lt hseventeen (by omega)

/-- Settles O24: the bound is `largestSum_of_type` at each type's length, and the frame of 0xFF bytes is evaluated. -/
theorem largestSumOfEachType : Obligations.LargestSumOfEachType := by
  intro tm htm
  have hvalues : (4 ≤ tm.2.1 ∧ tm.2.1 ≤ 17) ∧ tm.1.toNat + 255 * (tm.2.1 - 3) = tm.2.2 ∧ tm.2.2 < 0x0F00 ∧
      (calcChecksum ([0xFF, tm.1] ++ List.replicate (tm.2.1 - 2) 0xFF)).toNat = tm.2.2 := by
    revert tm
    decide
  obtain ⟨hshort, hmax, hhigh, hreached⟩ := hvalues
  exact ⟨fun frame hlen ht => largestSum_of_type hlen ht hshort hmax hhigh, hreached⟩

/-! ### Rounding to tenths -/

open Sys2Proof.Downstream

theorem roundQuot_of_below {n : Int} {d : Nat} (ties : RoundTies) (h : 2 * (n % d) < d) :
    roundQuot ties n d = n / d :=
  if_pos h

theorem roundQuot_of_above {n : Int} {d : Nat} (ties : RoundTies) (h : d < 2 * (n % d)) :
    roundQuot ties n d = n / d + 1 :=
  (if_neg h.not_gt).trans (if_pos h)

/-- A tie goes to one of the two neighbours. -/
theorem roundQuot_of_tie {n : Int} {d : Nat} (ties : RoundTies) (h : 2 * (n % d) = d) :
    roundQuot ties n d = n / d ∨ roundQuot ties n d = n / d + 1 := by
  cases ties with
  | awayFromZero =>
    rw [roundQuot, if_neg h.not_lt, if_neg h.symm.not_lt]
    exact (ite_eq_or_eq _ _ _).symm
  | halfEven =>
    rw [roundQuot, if_neg h.not_lt, if_neg h.symm.not_lt]
    exact ite_eq_or_eq _ _ _

/-- A tie of a value that is not negative goes up by default. -/
theorem roundQuot_of_tie_nonneg {n : Int} {d : Nat} (hn : 0 ≤ n) (h : 2 * (n % d) = d) :
    roundQuot .awayFromZero n d = n / d + 1 := by
  rw [roundQuot, if_neg h.not_lt, if_neg h.symm.not_lt]
  exact if_pos hn

/-- The rounded quotient is the floor where the remainder is at most half the divisor, and one more where it is at least
half, whatever the tie rule. -/
theorem roundQuot_cases (ties : RoundTies) (n : Int) (d : Nat) :
    (roundQuot ties n d = n / d ∧ 2 * (n % d) ≤ d) ∨ (roundQuot ties n d = n / d + 1 ∧ d ≤ 2 * (n % d)) := by
  rcases lt_trichotomy (2 * (n % d)) d with hbelow | htie | habove
  · exact .inl ⟨roundQuot_of_below ties hbelow, hbelow.le⟩
  · exact (roundQuot_of_tie ties htie).imp (⟨·, htie.le⟩) (⟨·, htie.ge⟩)
  · exact .inr ⟨roundQuot_of_above ties habove, habove.le⟩

/-- Settles O58: the value rounded is the quotient times `d` plus the remainder, and the remainder is on the nearer side
(`roundQuot_cases`). -/
theorem roundOneIsNearest : Obligations.RoundOneIsNearest := by
  intro ties n d hd
  have hsplit : 10 * n / d * d + 10 * n % d = 10 * n := Int.ediv_mul_add_emod (10 * n) d
  have hpos : 0 ≤ 10 * n % d := Int.emod_nonneg _ (by omega)
  have hlt : 10 * n % d < d := Int.emod_lt_of_pos _ (by omega)
  rw [round1]
  rcases roundQuot_cases ties (10 * n) d with ⟨hq, hhalf⟩ | ⟨hq, hhalf⟩
  · rw [hq]
    omega
  · rw [hq, add_mul, one_mul]
    omega

theorem roundQuot_of_no_tie {n : Int} {d : Nat} (ties ties' : RoundTies) (h : 2 * (n % d) ≠ d) :
    roundQuot ties n d = roundQuot ties' n d := by
  rcases h.lt_or_gt with hbelow | habove
  · rw [roundQuot_of_below ties hbelow, roundQuot_of_below ties' hbelow]
  · rw [roundQuot_of_above ties habove, roundQuot_of_above ties' habove]

theorem no_tie_windChill (raw : Int) : 2 * ((10 * (raw - 320)) % 18) ≠ 18 := by omega

/-- Settles O59: the ties are congruences of the raw value; ×0.1 divides without a remainder, and the wind chill has no tie
on which the rules could differ. -/
theorem tiesOccurForRainOnly : Obligations.TiesOccurForRainOnly := by
  refine ⟨fun raw => by omega, fun raw hraw => ?_, fun raw => by omega, no_tie_windChill, fun ties raw => ?_,
    fun raw => ?_⟩
  · exact roundQuot_of_tie_nonneg (d := 500) (by omega) (by omega)
  · rcases roundQuot_cases ties (10 * raw) 10 with ⟨hq, -⟩ | ⟨-, hhalf⟩
    · rw [round1, hq]
      omega
    · omega
  · exact roundQuot_of_no_tie (d := 18) _ _ (no_tie_windChill raw)

end Sys2Proof.Proofs
end

section
/-! PROOFS. Field decoding (43_field_decode.md section 8): the gating of the six groups (R175), and raw values placed in a
frame come out of the decoder (R176). -/

namespace Sys2Proof.Proofs

open Sys2Proof.Machine Sys2Proof.Claims

/-- Settles O49: `decoded` gates each group by its bit of FRM_SEL, and the closed groups are written out. -/
theorem decoderOutputsAreGated : Obligations.DecoderOutputsAreGated :=
  fun _ => ⟨rfl, rfl, rfl, rfl, rfl, rfl⟩

/-! ### Operand forms of placed fields -/

@[simp] theorem loNibble_append (hi lo : BitVec 4) : loNibble (hi ++ lo) = lo := by
  have hlo := lo.isLt
  apply BitVec.eq_of_toNat_eq
  rw [loNibble_toNat, append_toNat]
  omega

@[simp] theorem hiNibble_append (hi lo : BitVec 4) : hiNibble (hi ++ lo) = hi := by
  have hlo := lo.isLt
  apply BitVec.eq_of_toNat_eq
  rw [hiNibble_toNat, append_toNat]
  omega

/-- A field cut in two and put together again. -/
theorem extract_append_extract {m n : Nat} (v : BitVec (m + n)) : v.extractLsb' n m ++ v.extractLsb' 0 n = v := by
  have hlt : v.toNat / 2 ^ n < 2 ^ m := by
    have hv := v.isLt
    rw [Nat.pow_add, Nat.mul_comm] at hv
    exact Nat.div_lt_of_lt_mul hv
  apply BitVec.eq_of_toNat_eq
  rw [append_toNat, BitVec.extractLsb'_toNat, BitVec.extractLsb'_toNat, Nat.shiftRight_eq_div_pow, Nat.shiftRight_zero,
    Nat.mod_eq_of_lt hlt]
  exact Nat.div_add_mod' _ _

@[simp] theorem pair16_highByte_lowByte (v : BitVec 16) : pair16 (highByte v) (lowByte v) = v :=
  extract_append_extract (m := 8) (n := 8) v

/-- A byte whose low nibble is a field's bits 11 to 8, whatever its high nibble. -/
@[simp] theorem pair12_append_lowByte (x : BitVec 4) (v : BitVec 12) :
    pair12 (x ++ v.extractLsb' 8 4) (lowByte v) = v := by
  rw [pair12, ← loNibble, loNibble_append]
  exact extract_append_extract (m := 4) (n := 8) v

@[simp] theorem pair12_highNibbleByte (x : BitVec 4) (v : BitVec 12) : pair12 (highNibbleByte x v) (lowByte v) = v :=
  pair12_append_lowByte x v

@[simp] theorem pair12_signByte (neg : Bool) (x : BitVec 3) (v : BitVec 12) :
    pair12 (signByte neg x v) (lowByte v) = v :=
  pair12_append_lowByte (BitVec.ofBool neg ++ x) v

@[simp] theorem signByte_getLsbD_seven (neg : Bool) (x : BitVec 3) (v : BitVec 12) :
    (signByte neg x v).getLsbD 7 = neg := by
  unfold signByte
  generalize v.extractLsb' 8 4 = lo
  revert neg x lo
  decide

@[simp] theorem hiNibble_highNibbleByte (x : BitVec 4) (v : BitVec 12) : hiNibble (highNibbleByte x v) = x :=
  hiNibble_append x _

@[simp] theorem windAvg12_extract (avg : BitVec 12) (lo : BitVec 4) :
    windAvg12 (avg.extractLsb' 4 8) (avg.extractLsb' 0 4 ++ lo) = avg := by
  rw [windAvg12, hiNibble_append]
  exact extract_append_extract (m := 8) (n := 4) avg

/-! ### A frame with its checksum, in one fragment -/

@[simp] theorem sealFrame_length (pre : List Byte) : (sealFrame pre).length = pre.length + 2 := by
  rw [sealFrame, List.length_append]
  rfl

theorem sealFrame_checksum (pre : List Byte) : rxChecksum (sealFrame pre) = calcChecksum (sealFrame pre) := by
  have hhigh : (sealFrame pre).length - 1 = pre.length + 1 := by rw [sealFrame_length]; omega
  have hlow : (sealFrame pre).length - 2 = pre.length := by rw [sealFrame_length]; omega
  have hsummed : (sealFrame pre).take pre.length = pre := List.take_left
  rw [rxChecksum, calcChecksum, hhigh, hlow, hsummed]
  simp only [sealFrame, List.getD_eq_getElem?_getD, List.getElem?_append_right (Nat.le_refl pre.length),
    List.getElem?_append_right (Nat.le_add_right pre.length 1), Nat.add_sub_cancel_left, Nat.sub_self]
  exact extract_append_extract (m := 8) (n := 8) _

/-- A fragment declares the bytes it is made of. -/
theorem declared_fragOf {ds : List Byte} (h : ds.length ≤ 19) : (fragOf ds).declared = ds := by
  have hcount : (BitVec.ofNat 5 ds.length).toNat = ds.length := by
    rw [BitVec.toNat_ofNat, Nat.mod_eq_of_lt (by omega)]
  have hlanes : (lanesOf ds).toList = (ds ++ List.replicate 19 0).take 19 := rfl
  rw [Fragment.declared, fragOf, hcount, hlanes, List.take_take, Nat.min_eq_left h, List.take_left]

theorem fresh_framingInv {s : State} (h : FreshInSync s) : FramingInv s :=
  framingInv_of_buffering (collecting_of_fresh h).buffering h.1

/-- A frame of a known type with its checksum, fed to a fresh in-sync block in one fragment, is dispatched. -/
theorem exec_sealFrame {s : State} {pre : List Byte} (hfresh : FreshInSync s)
    (ht : lenTable ((sealFrame pre).getD 1 0) = some (BitVec.ofNat 5 (sealFrame pre).length))
    (hlen : (sealFrame pre).length ≤ 17) :
    exec (.fragInsync (fragOf (sealFrame pre))) s = .next (s.frameReset.emit (recDispatched (sealFrame pre) false)) := by
  have hn : (BitVec.ofNat 5 (sealFrame pre).length).toNat = (sealFrame pre).length := by
    rw [BitVec.toNat_ofNat, Nat.mod_eq_of_lt (by omega)]
  have hall : soFar (fragOf (sealFrame pre)) s = sealFrame pre := by
    rw [soFar, bytesOf, hfresh.2.1, declared_fragOf (by omega)]
    rfl
  have hnosurplus : decide ((sealFrame pre).length < (sealFrame pre).length) = false := decide_eq_false (lt_irrefl _)
  rw [exec_fragInsync _ (fresh_framingInv hfresh), hall, insyncOutcome_complete s ht hn.le, hn, List.take_length,
    hnosurplus, frameOutcome_of_match (by simp) (sealFrame_checksum pre)]

/-! ### The six layouts

For each layout its decoder reads back the values placed in the frame; `exec_sealFrame` and `decoded_of_selOf` then say that
this decoder, and no other, is shown. -/

theorem decRain_rainFrame (b0 : Byte) (x3 : BitVec 4) (o : RainOut) : decRain (frmDataOf (rainFrame b0 x3 o)) = o := by
  show RainOut.mk (pair12 (highNibbleByte x3 o.rateRaw) (lowByte o.rateRaw))
    (pair16 (highByte o.oneHourRaw) (lowByte o.oneHourRaw)) (pair16 (highByte o.dayRaw) (lowByte o.dayRaw))
    (pair16 (highByte o.totalRaw) (lowByte o.totalRaw)) o.sinceMin o.sinceHour o.sinceDay o.sinceMonth o.sinceYy = o
  simp only [pair12_highNibbleByte, pair16_highByte_lowByte]

/-- Settles O52: `decRain` of the frame's bytes is the values placed (`decRain_rainFrame`). -/
theorem rainFieldsRoundTrip : Obligations.RainFieldsRoundTrip := by
  intro s b0 x3 o hfresh
  refine ⟨_, exec_sealFrame hfresh rfl (by simp), rfl, rfl, ?_, rfl, rfl⟩
  rw [decoded_of_selOf (row := .rain) rfl]
  exact congrArg (Decoded.mk · .zero .zero .zero .zero .zero) (decRain_rainFrame b0 x3 o)

/-- The dew point comes out for sensor id 1 only (R165). -/
theorem decTempHum_tempHumFrame (b0 : Byte) (x2 : BitVec 4) (x4 x7 : BitVec 3) (x8 x9 : Byte) (o : TempHumRaw) :
    decTempHum (frmDataOf (tempHumFrame b0 x2 x4 x7 x8 x9 o)) =
      ⟨o.sensorId, if o.sensorId = 0 then 0 else if o.sensorId = 1 then 1 else 2, o.tempMag, o.tempNeg, o.hum,
        decide (o.sensorId = 1), if o.sensorId = 1 then o.dewMag else 0, decide (o.sensorId = 1) && o.dewNeg,
        decide (1000 < o.tempMag.toNat)⟩ := by
  show TempHumOut.mk (loNibble (x2 ++ o.sensorId)) (thLocation (loNibble (x2 ++ o.sensorId)))
    (pair12 (signByte o.tempNeg x4 o.tempMag) (lowByte o.tempMag)) ((signByte o.tempNeg x4 o.tempMag).getLsbD 7) o.hum
    (loNibble (x2 ++ o.sensorId) == 1)
    (if loNibble (x2 ++ o.sensorId) = 1 then pair12 (signByte o.dewNeg x7 o.dewMag) (lowByte o.dewMag) else 0)
    (loNibble (x2 ++ o.sensorId) == 1 && (signByte o.dewNeg x7 o.dewMag).getLsbD 7)
    (thImplausible (pair12 (signByte o.tempNeg x4 o.tempMag) (lowByte o.tempMag))) = _
  rw [loNibble_append, pair12_signByte, pair12_signByte, signByte_getLsbD_seven, signByte_getLsbD_seven]
  rfl

/-- Settles O53: `decTempHum` of the frame's bytes is the values placed (`decTempHum_tempHumFrame`). -/
theorem tempHumFieldsRoundTrip : Obligations.TempHumFieldsRoundTrip := by
  intro s b0 x2 x4 x7 x8 x9 o hfresh
  refine ⟨_, exec_sealFrame hfresh rfl (by simp), rfl, rfl, rfl, rfl, ?_⟩
  rw [decoded_of_selOf (row := .tempHum) rfl]
  exact congrArg (Decoded.mk .zero · .zero .zero .zero .zero) (decTempHum_tempHumFrame b0 x2 x4 x7 x8 x9 o)

/-- b3 carries the absolute pressure's high nibble and the forecast index (R168). -/
theorem decPressure_pressureFrame (b0 : Byte) (x5 : BitVec 4) (rel abs : BitVec 12) (fc : BitVec 4) :
    decPressure (frmDataOf (pressureFrame b0 x5 rel abs fc)) = ⟨rel, abs, fc, decide (fc.toNat < 7)⟩ := by
  show PressureOut.mk (pair12 (highNibbleByte x5 rel) (lowByte rel)) (pair12 (highNibbleByte fc abs) (lowByte abs))
    (hiNibble (highNibbleByte fc abs)) (decide ((hiNibble (highNibbleByte fc abs)).toNat < 7)) = _
  simp only [pair12_highNibbleByte, hiNibble_highNibbleByte]

/-- Settles O54: `decPressure` by `decPressure_pressureFrame`; the UV index is a whole byte of its frame. -/
theorem pressureAndUvFieldsRoundTrip : Obligations.PressureAndUvFieldsRoundTrip := by
  refine fun s hfresh => ⟨fun b0 x5 rel abs fc => ?_, fun b0 x2 index => ?_⟩
  · refine ⟨_, exec_sealFrame hfresh rfl (by simp), rfl, rfl, rfl, rfl, ?_⟩
    rw [decoded_of_selOf (row := .pressure) rfl]
    exact congrArg (Decoded.mk .zero .zero · .zero .zero .zero) (decPressure_pressureFrame b0 x5 rel abs fc)
  · refine ⟨_, exec_sealFrame hfresh rfl (by simp), rfl, rfl, rfl, rfl, ?_⟩
    rw [decoded_of_selOf (row := .uv) rfl]
    rfl

/-- b5 is shared by the gust and the average; b8 as a whole decides whether there is a wind chill (R171). -/
theorem decWind_windFrame (b0 : Byte) (x2 : BitVec 4) (x3 : Byte) (dir : BitVec 4) (gust avg : BitVec 12)
    (b7 b8 : Byte) :
    decWind (frmDataOf (windFrame b0 x2 x3 dir gust avg b7 b8)) =
      ⟨dir, gust, avg, b8 != 0x20, if b8 = 0x20 then 0 else pair12 b8 b7⟩ := by
  show WindOut.mk (loNibble (x2 ++ dir)) (pair12 (avg.extractLsb' 0 4 ++ gust.extractLsb' 8 4) (lowByte gust))
    (windAvg12 (avg.extractLsb' 4 8) (avg.extractLsb' 0 4 ++ gust.extractLsb' 8 4)) (b8 != 0x20)
    (if b8 = 0x20 then 0 else pair12 b8 b7) = _
  rw [loNibble_append, pair12_append_lowByte, windAvg12_extract]

/-- A Wind frame with any b7 and b8, fed to a fresh in-sync block. -/
theorem exec_windFrame {s : State} (hfresh : FreshInSync s) (b0 : Byte) (x2 : BitVec 4) (x3 : Byte) (dir : BitVec 4)
    (gust avg : BitVec 12) (b7 b8 : Byte) :
    ∃ t, exec (.fragInsync (fragOf (windFrame b0 x2 x3 dir gust avg b7 b8))) s = .next t ∧ t.evValid = true ∧
      t.record.evCode = 1 ∧ t.record.batLow = b0.getLsbD 6 ∧ t.record.flush = false ∧
      decoded t.record = ⟨.zero, .zero, .zero, .zero,
        ⟨dir, gust, avg, b8 != 0x20, if b8 = 0x20 then 0 else pair12 b8 b7⟩, .zero⟩ := by
  refine ⟨_, exec_sealFrame hfresh rfl (by simp), rfl, rfl, rfl, rfl, ?_⟩
  rw [decoded_of_selOf (row := .wind) rfl]
  exact congrArg (Decoded.mk .zero .zero .zero .zero · .zero) (decWind_windFrame b0 x2 x3 dir gust avg b7 b8)

/-- Settles O55: `exec_windFrame` with the two bytes of a chill value, and with the sentinel. -/
theorem windFieldsRoundTrip : Obligations.WindFieldsRoundTrip := by
  refine fun s b0 x2 x3 dir gust avg hfresh => ⟨fun x8 chill hchill => ?_, fun b7 => ?_⟩
  · have hwind := exec_windFrame hfresh b0 x2 x3 dir gust avg (lowByte chill) (highNibbleByte x8 chill)
    rwa [bne_iff_ne.mpr hchill, if_neg hchill, pair12_highNibbleByte] at hwind
  · exact exec_windFrame hfresh b0 x2 x3 dir gust avg b7 0x20

/-- The flags byte's four bits of R79. -/
theorem statusFlags_bits (powered batLow radioSync radioLow : Bool) (x : BitVec 4) :
    notPowered (statusFlags powered batLow radioSync radioLow x) = !powered ∧
      batteryLow (statusFlags powered batLow radioSync radioLow x) = batLow ∧
      Machine.radioSync (statusFlags powered batLow radioSync radioLow x) = radioSync ∧
      Machine.radioLow (statusFlags powered batLow radioSync radioLow x) = radioLow := by
  revert powered batLow radioSync radioLow x
  decide

theorem decStatus_statusFrame (batLow : Bool) (x0 : BitVec 4) (x2 x3 x9 : Byte) (o : StatusOut) :
    decStatus (frmDataOf (statusFrame batLow x0 x2 x3 x9 o)) = o := by
  obtain ⟨hpower, -, hsync, hlow⟩ := statusFlags_bits o.powered batLow o.radioSync o.radioLow x0
  show StatusOut.mk o.clkMin o.clkHour o.clkDay o.clkMonth o.clkYy
    (!notPowered (statusFlags o.powered batLow o.radioSync o.radioLow x0))
    (Machine.radioSync (statusFlags o.powered batLow o.radioSync o.radioLow x0))
    (Machine.radioLow (statusFlags o.powered batLow o.radioSync o.radioLow x0)) = o
  rw [hpower, hsync, hlow, Bool.not_not]

/-- Settles O56: the clock's bytes come out whole and the flags by `statusFlags_bits`; type 0x60 gives the flush strobe. -/
theorem statusFieldsRoundTrip : Obligations.StatusFieldsRoundTrip := by
  intro s batLow x0 x2 x3 x9 o hfresh
  obtain ⟨-, hbat, -, -⟩ := statusFlags_bits o.powered batLow o.radioSync o.radioLow x0
  refine ⟨_, exec_sealFrame hfresh rfl (by simp), rfl, rfl, ?_, hbat, rfl⟩
  rw [decoded_of_selOf (row := .status) rfl]
  exact congrArg (Decoded.mk .zero .zero .zero .zero .zero) (decStatus_statusFrame batLow x0 x2 x3 x9 o)

end Sys2Proof.Proofs
end
